-- ==== Sys2Proof/Word.lean ====
section
/-! DEFINITION. The widths of the values of the FCE (00_scope.md rule R5). Every value is an unsigned integer of a
stated width (rule R7). -/

namespace Sys2Proof

/-- A 64-bit value: a Block, a MasterKey, an operand or a result port (rules R5, R6). -/
abbrev Word64 := BitVec 64

/-- A 32-bit half-block (`HALF_W`). -/
abbrev Half := BitVec 32

/-- A 28-bit half of the key-schedule carry state (`KHALF_W`). -/
abbrev KHalf := BitVec 28

/-- The 56-bit key-schedule carry state `C ‖ D` (`KEY_EFF_W`). -/
abbrev Carry := BitVec 56

/-- A 48-bit round subkey (`SUBKEY_W`). -/
abbrev Subkey := BitVec 48

/-- A 6-bit S-box input (`SBOX_IN_W`). -/
abbrev Chunk := BitVec 6

/-- A 4-bit S-box output (`SBOX_OUT_W`). -/
abbrev Nibble := BitVec 4

/-- A 16-bit command word (`CW_W`). -/
abbrev CmdWord := BitVec 16

/-- A schedule: "an ordered sequence of exactly 16 round subkeys" (rule R27). -/
abbrev Schedule := Vector Subkey 16

end Sys2Proof
end

