-- ==== Sys2Proof/Syntax.lean ====
section
/-! DEFINITION. The 22 instructions of 30_encoding.md rule R93, one constructor per row of spec/opcode_table.json. The
operands `A` and `B` are not part of an instruction: they come from the command port (rule R94). -/

namespace Sys2Proof

/-- The instructions. `SPLIT` and `MERGE` carry their half width as the 6-bit field `SEL` of the command word; which values
of it are legal is `Instr.WellFormed`. -/
inductive Instr where
  | permIp
  | permFp
  | permPc1
  | permPc2
  | permE
  | permP
  | split (hw : BitVec 6)
  | merge (hw : BitVec 6)
  | substS1
  | substS2
  | substS3
  | substS4
  | substS5
  | substS6
  | substS7
  | substS8
  | rotl1
  | rotl2
  | new
  | frnd
  | enc
  | dec
  deriving DecidableEq, Repr

/-- The mnemonic of rule R93 (for `SPLIT` and `MERGE` without the half width). -/
def Instr.mnemonic : Instr → String
  | .permIp => "PERM.IP"
  | .permFp => "PERM.FP"
  | .permPc1 => "PERM.PC1"
  | .permPc2 => "PERM.PC2"
  | .permE => "PERM.E"
  | .permP => "PERM.P"
  | .split _ => "SPLIT"
  | .merge _ => "MERGE"
  | .substS1 => "SUBST.S1"
  | .substS2 => "SUBST.S2"
  | .substS3 => "SUBST.S3"
  | .substS4 => "SUBST.S4"
  | .substS5 => "SUBST.S5"
  | .substS6 => "SUBST.S6"
  | .substS7 => "SUBST.S7"
  | .substS8 => "SUBST.S8"
  | .rotl1 => "ROTL.1"
  | .rotl2 => "ROTL.2"
  | .new => "NEW"
  | .frnd => "FRND"
  | .enc => "ENC"
  | .dec => "DEC"

/-- `SPLIT56` = `SPLIT 28` (rule R99). -/
abbrev Instr.split56 : Instr := .split 28#6

/-- `SPLIT64` = `SPLIT 32` (rule R99). -/
abbrev Instr.split64 : Instr := .split 32#6

/-- `MERGE56` = `MERGE 28` (rule R99). -/
abbrev Instr.merge56 : Instr := .merge 28#6

/-- `MERGE64` = `MERGE 32` (rule R99). -/
abbrev Instr.merge64 : Instr := .merge 32#6

/-- `ROTL n` = `ROTL.n` for `n` = 1 or 2, and nothing for any other amount (rule R99). -/
def Instr.rotl : Nat → Option Instr
  | 1 => some .rotl1
  | 2 => some .rotl2
  | _ => none

/-- `SUBST j` = `SUBST.S(j+1)` for `j` = 0..7, and nothing for any other box number (rule R99). -/
def Instr.subst : Nat → Option Instr
  | 0 => some .substS1
  | 1 => some .substS2
  | 2 => some .substS3
  | 3 => some .substS4
  | 4 => some .substS5
  | 5 => some .substS6
  | 6 => some .substS7
  | 7 => some .substS8
  | _ => none

end Sys2Proof
end

