-- ==== Sys2Proof/WellFormed.lean ====
section
/-! DEFINITION. Which terms of `Instr` are instructions of the FCE: the legal half widths of 30_encoding.md rule R93. -/

namespace Sys2Proof

/-- A legal half width: 1 to 32, "those for which `2*hw` fits the 64-bit port" (rule R93). -/
abbrev legalHalfWidth (hw : BitVec 6) : Prop := 1 ≤ hw.toNat ∧ hw.toNat ≤ 32

/-- Well-formedness: `SPLIT` and `MERGE` have a legal half width; the other instructions have no field. -/
def Instr.wellFormed : Instr → Bool
  | .split hw => decide (legalHalfWidth hw)
  | .merge hw => decide (legalHalfWidth hw)
  | .permIp => true
  | .permFp => true
  | .permPc1 => true
  | .permPc2 => true
  | .permE => true
  | .permP => true
  | .substS1 => true
  | .substS2 => true
  | .substS3 => true
  | .substS4 => true
  | .substS5 => true
  | .substS6 => true
  | .substS7 => true
  | .substS8 => true
  | .rotl1 => true
  | .rotl2 => true
  | .new => true
  | .frnd => true
  | .enc => true
  | .dec => true

/-- Well-formedness as a proposition. -/
abbrev Instr.WellFormed (i : Instr) : Prop := i.wellFormed = true

end Sys2Proof
end

