-- ==== Sys2Proof/Decode.lean ====
section
/-! DEFINITION. The decoder of 30_encoding.md rule R98, total on any 16 bits, and the encoder of rule R93. -/

namespace Sys2Proof

/-- Why a command word is illegal (rule R96). All three are the fault ILLCMD; the reason itself is recorded nowhere. -/
inductive DecodeError where
  /-- The field `Z` is not 0. -/
  | reservedField
  /-- `OP` is 0x0 or 0xA to 0xF. -/
  | unassignedOp
  /-- `SEL` is not one of the legal values for its `OP`. -/
  | illegalSelector
  deriving DecidableEq, Repr

/-- `OP` = `CW[15:12]` (rule R91). -/
def fieldOp (cw : CmdWord) : BitVec 4 := cw.extractLsb' 12 4

/-- `Z` = `CW[11:6]` (rule R91). -/
def fieldZ (cw : CmdWord) : BitVec 6 := cw.extractLsb' 6 6

/-- `SEL` = `CW[5:0]` (rule R91). -/
def fieldSel (cw : CmdWord) : BitVec 6 := cw.extractLsb' 0 6

/-- `PERM`: legal iff `SEL <= 5`, the table ids of 20_memory.md rule R52. -/
def decodePerm (sel : BitVec 6) : Except DecodeError Instr :=
  match sel.toNat with
  | 0 => .ok .permIp
  | 1 => .ok .permFp
  | 2 => .ok .permPc1
  | 3 => .ok .permPc2
  | 4 => .ok .permE
  | 5 => .ok .permP
  | _ => .error .illegalSelector

/-- `SUBST`: legal iff `SEL <= 7`, the box numbers. -/
def decodeSubst (sel : BitVec 6) : Except DecodeError Instr :=
  match sel.toNat with
  | 0 => .ok .substS1
  | 1 => .ok .substS2
  | 2 => .ok .substS3
  | 3 => .ok .substS4
  | 4 => .ok .substS5
  | 5 => .ok .substS6
  | 6 => .ok .substS7
  | 7 => .ok .substS8
  | _ => .error .illegalSelector

/-- `ROTL`: legal iff `SEL` is 1 or 2. -/
def decodeRotl (sel : BitVec 6) : Except DecodeError Instr :=
  match sel.toNat with
  | 1 => .ok .rotl1
  | 2 => .ok .rotl2
  | _ => .error .illegalSelector

/-- `SPLIT` and `MERGE`: legal iff `1 <= SEL <= 32`. -/
def decodeHalfWidth (mk : BitVec 6 → Instr) (sel : BitVec 6) : Except DecodeError Instr :=
  if legalHalfWidth sel then .ok (mk sel) else .error .illegalSelector

/-- `NEW`, `FRND`, `ENC`, `DEC`: legal iff `SEL = 0`. -/
def decodePlain (i : Instr) (sel : BitVec 6) : Except DecodeError Instr :=
  if sel = 0#6 then .ok i else .error .illegalSelector

/-- The decoding algorithm of rule R98. -/
def decode (cw : CmdWord) : Except DecodeError Instr :=
  if fieldZ cw ≠ 0#6 then .error .reservedField
  else
    match (fieldOp cw).toNat with
    | 1 => decodePerm (fieldSel cw)
    | 2 => decodeHalfWidth .split (fieldSel cw)
    | 3 => decodeHalfWidth .merge (fieldSel cw)
    | 4 => decodeSubst (fieldSel cw)
    | 5 => decodeRotl (fieldSel cw)
    | 6 => decodePlain .new (fieldSel cw)
    | 7 => decodePlain .frnd (fieldSel cw)
    | 8 => decodePlain .enc (fieldSel cw)
    | 9 => decodePlain .dec (fieldSel cw)
    | _ => .error .unassignedOp

/-- The instruction the decoder reads from a row's bits, numbered as the opcode table numbers them. A command word is one
16-bit word (rule R91), so bits above `nbits` are 0 and nothing follows it. -/
def decodeTableWord (nbits w : Nat) : Option Instr :=
  match decode (BitVec.ofNat 16 (w % 2 ^ nbits)) with
  | .ok i => some i
  | .error _ => none

/-- A command word from its fields, `Z` = 0 (rule R91). -/
def wordOf (op : BitVec 4) (sel : BitVec 6) : CmdWord := op ++ 0#6 ++ sel

/-- The encoder: the command word of rule R93. -/
def encode : Instr → CmdWord
  | .permIp => wordOf 0x1#4 0#6
  | .permFp => wordOf 0x1#4 1#6
  | .permPc1 => wordOf 0x1#4 2#6
  | .permPc2 => wordOf 0x1#4 3#6
  | .permE => wordOf 0x1#4 4#6
  | .permP => wordOf 0x1#4 5#6
  | .split hw => wordOf 0x2#4 hw
  | .merge hw => wordOf 0x3#4 hw
  | .substS1 => wordOf 0x4#4 0#6
  | .substS2 => wordOf 0x4#4 1#6
  | .substS3 => wordOf 0x4#4 2#6
  | .substS4 => wordOf 0x4#4 3#6
  | .substS5 => wordOf 0x4#4 4#6
  | .substS6 => wordOf 0x4#4 5#6
  | .substS7 => wordOf 0x4#4 6#6
  | .substS8 => wordOf 0x4#4 7#6
  | .rotl1 => wordOf 0x5#4 1#6
  | .rotl2 => wordOf 0x5#4 2#6
  | .new => wordOf 0x6#4 0#6
  | .frnd => wordOf 0x7#4 0#6
  | .enc => wordOf 0x8#4 0#6
  | .dec => wordOf 0x9#4 0#6

end Sys2Proof
end

