-- ==== Sys2Proof/Config.lean ====
section
/-! DEFINITION. The parameters the spec leaves open (00_scope.md rule R6) and the one free value of the model. A constant
without a body is a value nothing in the model can learn. -/

namespace Sys2Proof.Config

/-- `UNROLL`, rounds evaluated per internal step, one of 1, 2, 4, 8, 16 (rule R6, 43_cipher_engine.md rule R191). It is an
argument of the clock-cycle machine (Machine/Cycle.lean); no result depends on it. -/
inductive Unroll where
  | one | two | four | eight | sixteen
  deriving DecidableEq, Repr, Inhabited

/-- The number of rounds an `Unroll` stands for. -/
def Unroll.rounds : Unroll → Nat
  | .one => 1
  | .two => 2
  | .four => 4
  | .eight => 8
  | .sixteen => 16

/-- `LAT_PRIM`, OPEN: finite and at least 1; no rule reads it (70_reset_and_hazards.md rule R259). -/
opaque latPrim : ℕ+

/-- `LAT_NEW`, OPEN: finite and at least 1; no rule reads it (rule R259). -/
opaque latNew : ℕ+

/-- `LAT_CRYPT`, OPEN: finite and at least 1; no rule reads it (rule R259). -/
opaque latCrypt : ℕ+

/-- `NLANES`, OPEN: at least 1; an implementation freedom that no rule reads (20_memory.md rule R81). -/
opaque nLanes : ℕ+

/-- The two ways a host may lay a 64-bit integer out in bytes. -/
inductive ByteOrder where
  | mostSignificantFirst | leastSignificantFirst
  deriving DecidableEq, Repr, Inhabited

/-- `HOST_BYTE_ORDER`, OPEN: outside the FCE, no rule reads it (20_memory.md rule R51). -/
opaque hostByteOrder : ByteOrder

/-- The two styles of a reset input. -/
inductive ResetStyle where
  | synchronous | asynchronous
  deriving DecidableEq, Repr, Inhabited

/-- `RESET_SYNC`, OPEN: it changes no rule (70_reset_and_hazards.md rule R250). -/
opaque resetSync : ResetStyle

/-- FREE VALUE (log entry 3): what a read of key-store entry `i` gives when the entry holds no value. No rule reads such an
entry (10_state.md rule R27, 93_implementation_defined.md U1 "any value"), and no state that the machine reaches has
`KV` = 1 with such an entry. -/
opaque absentSubkey : Nat → Subkey

end Sys2Proof.Config
end

