-- ==== Sys2Proof/Machine/State.lean ====
section
/-! DEFINITION. The state of the FCE (10_state.md rule R20), the command port as data (30_encoding.md rules R90, R95,
R100), and the state after reset (10_state.md rule R32). -/

namespace Sys2Proof.Machine

/-- The phase register `PH` (10_state.md rule R24): `IDLE` = 0, `KEYGEN` = 1, `CRYPT` = 2. "The value 3 is never taken." -/
inductive Phase where
  | idle | keygen | crypt
  deriving DecidableEq, Repr

/-- The faults of the FCE (60_exceptions.md rules R211, R212, R213, R215). Each ends its command with a response and is a
NEXT state of the machine (rule R214). -/
inductive Cause where
  | width | table | illcmd | nokey
  deriving DecidableEq, Repr

/-- The error code `ERR` of a response: "A model's `ERR` type has five values" (rule R216,
93_implementation_defined.md U4). -/
inductive Err where
  | ok
  | fault (c : Cause)
  deriving DecidableEq, Repr

/-- A response (30_encoding.md rules R90, R95). -/
structure Response where
  err : Err
  q0 : Word64
  q1 : Word64
  deriving DecidableEq, Repr

/-- A command (30_encoding.md rule R90): the command word and the two operands. -/
structure Command where
  cw : CmdWord
  a : Word64
  b : Word64
  deriving DecidableEq, Repr

/-- What the host drives on the port in one cycle (30_encoding.md rule R100): nothing (`cmd_valid` = 0), the reset input
`rst`, or a command (`cmd_valid` = 1). A command held while `rst` is asserted is not accepted (70_reset_and_hazards.md rule
R250) and is here a command that follows the reset (log entry 2). -/
inductive PortIn where
  | quiet
  | reset
  | command (c : Command)
  deriving DecidableEq, Repr

/-- The state. `l` to `flt` are the whole architectural state of 10_state.md rule R20; `inputs` and `rsp` are the two sides
of the command port, the model's own fields (log entry 2). -/
structure State where
  /-- `L`, the left half-block (rule R21). -/
  l : Half
  /-- `R`, the right half-block (rule R21). -/
  r : Half
  /-- `C`, the high half of the carry state (rule R22). -/
  c : KHalf
  /-- `D`, the low half of the carry state (rule R22). -/
  d : KHalf
  /-- `PH`, the phase (rule R24). -/
  ph : Phase
  /-- `RC`, the round counter, values 0 to 16 (rule R25). -/
  rc : Fin 17
  /-- `DIR`, the direction latch, `true` for 1 (rule R23). -/
  dir : Bool
  /-- `KS[0..15]`, the key store; `none` is an entry that "holds *no value*" (rule R27, log entry 1). -/
  ks : Vector (Option Subkey) 16
  /-- `KV`, the key-valid flag (rule R28). -/
  kv : Bool
  /-- `FLT`, the sticky fault register (rule R29). -/
  flt : BitVec 4
  /-- What the host drives on the port, this cycle's entry first. -/
  inputs : List PortIn
  /-- The response signals of the current cycle; `none` is `rsp_valid` = 0. -/
  rsp : Option Response
  deriving DecidableEq, Repr

/-- A step that stops the machine. There is none: "the FCE cannot hang and cannot be stuck" (70_reset_and_hazards.md rule
R258), and the faults of 60_exceptions.md are responses (`Cause`), so this type has no constructor and no meaning can end
in a fault. -/
inductive Fault where
  deriving DecidableEq, Repr

/-- A refusal: the instruction has no meaning in the model. -/
inductive Refusal where
  /-- Raised by an arm of `exec` for an instruction that has no meaning yet; safe. No arm raises it. -/
  | notModelled (mnemonic : String)
  deriving DecidableEq, Repr

/-- The state after reset (10_state.md rule R32): every register 0, `PH` = `IDLE`, `KV` = 0, `FLT` = 0, `KS` holding no
value; and at the port nothing presented and no response (log entry 2). -/
def State.reset : State where
  l := 0#32
  r := 0#32
  c := 0#28
  d := 0#28
  ph := .idle
  rc := 0
  dir := false
  ks := Vector.replicate 16 none
  kv := false
  flt := 0#4
  inputs := []
  rsp := none

end Sys2Proof.Machine
end

