-- ==== Sys2Proof/Machine/Flags.lean ====
section
/-! DEFINITION. The status side of the FCE: fault codes and their bits of `FLT` (60_exceptions.md rule R216), the status
view `STAT` (10_state.md rule R30) and the output `cmd_ready` (30_encoding.md rule R100). The FCE has no arithmetic
flag (40_primitives.md rule R143). -/

namespace Sys2Proof.Machine

/-- The bit number of a cause in `FLT`: "bit `n-1` belongs to fault code `n`" (10_state.md rule R29). -/
def causeBit : Cause → Nat
  | .width => 0
  | .table => 1
  | .illcmd => 2
  | .nokey => 3

/-- The 3-bit code on `err` (60_exceptions.md rule R216). -/
def errCode : Err → BitVec 3
  | .ok => 0#3
  | .fault .width => 1#3
  | .fault .table => 2#3
  | .fault .illcmd => 3#3
  | .fault .nokey => 4#3

/-- `FLT[n-1] <- 1`, the other bits kept (60_exceptions.md rule R214). -/
def setFaultBit (c : Cause) (flt : BitVec 4) : BitVec 4 := flt ||| (1#4 <<< causeBit c)

/-- The 2-bit encoding of `PH` (10_state.md rule R24). -/
def phaseCode : Phase → BitVec 2
  | .idle => 0#2
  | .keygen => 1#2
  | .crypt => 2#2

/-- `BUSY`: 1 when `PH` is not `IDLE` (10_state.md rule R30). -/
def busy (s : State) : Bool :=
  match s.ph with
  | .idle => false
  | .keygen => true
  | .crypt => true

/-- `STAT[5:0]`: `FLT ‖ KV ‖ BUSY`, a view and not state (10_state.md rule R30). -/
def State.stat (s : State) : BitVec 6 := s.flt ++ BitVec.ofBool s.kv ++ BitVec.ofBool (busy s)

/-- What the host drives in this cycle: nothing where the list of inputs is at its end. -/
def State.now (s : State) : PortIn := s.inputs.headD .quiet

/-- `cmd_ready`: 1 exactly when `PH` = `IDLE` and `rst` is not asserted (30_encoding.md rule R100). -/
def State.cmdReady (s : State) : Bool := !busy s && s.now != .reset

end Sys2Proof.Machine
end

