-- ==== Sys2Proof/Machine/Operands.lean ====
section
/-! DEFINITION. The operands of a command (30_encoding.md rule R94) and the width check (00_scope.md rule R7). -/

namespace Sys2Proof.Machine

/-- `fits(v, w)`: `v < 2^w` (00_scope.md rule R7). -/
def fits (v : Word64) (w : Nat) : Bool := decide (v.toNat < 2 ^ w)

/-- `A`: the port value "as it stands", sampled in the cycle of acceptance (rules R94, R100). Where no command is presented
nothing is accepted, and the 0 given there is read by no step (log entry 4). -/
def State.opA (s : State) : Word64 :=
  match s.now with
  | .command c => c.a
  | .quiet => 0#64
  | .reset => 0#64

/-- `B`, as `A`. -/
def State.opB (s : State) : Word64 :=
  match s.now with
  | .command c => c.b
  | .quiet => 0#64
  | .reset => 0#64

end Sys2Proof.Machine
end

