-- ==== Sys2Proof/Machine/Ops.lean ====
section
/-! DEFINITION. The shared operations of the machine: the response of a command that completes, taking a fault (the one
"exception entry" of the FCE, 60_exceptions.md rule R214; there is nothing to return from, rule R220), the key store as a
space (20_memory.md rule R74), and the command port moving on by one cycle. -/

namespace Sys2Proof.Machine

/-- The response of a command that completes: `ERR` = 0, `Q0`, `Q1` (30_encoding.md rule R95). -/
def State.respond (s : State) (q0 q1 : Word64) : State :=
  { s with rsp := some { err := .ok, q0 := q0, q1 := q1 } }

/-- `raise F`: the response is `ERR` = the code, `Q0` = `Q1` = 0, and `FLT[n-1] <- 1`; "Nothing else changes"
(60_exceptions.md rule R214). -/
def State.raise (s : State) (c : Cause) : State :=
  { s with rsp := some { err := .fault c, q0 := 0#64, q1 := 0#64 }, flt := setFaultBit c s.flt }

/-- The end of a command whose function gives its results or a fault. -/
def answer (res : Except Cause (Word64 × Word64)) (s : State) : Host.Outcome State Fault Refusal :=
  match res with
  | .ok q => .next (s.respond q.1 q.2)
  | .error c => .next (s.raise c)

/-- The end of a command with one result: `Q1` = 0 (30_encoding.md rule R95). -/
def answerOne (res : Except Cause Word64) (s : State) : Host.Outcome State Fault Refusal :=
  match res with
  | .ok q => .next (s.respond q 0#64)
  | .error c => .next (s.raise c)

/-- The value of a key-store entry; an entry that holds no value gives the free value of log entry 3. -/
def entryValue (i : Nat) (e : Option Subkey) : Subkey := e.getD (Config.absentSubkey i)

/-- The sixteen values of the key store, as ENC and DEC read them (20_memory.md rule R74). -/
def State.schedule (s : State) : Schedule := Vector.ofFn fun i => entryValue i s.ks[i]

/-- A key store that holds the given schedule in full. -/
def fullStore (ks : Schedule) : Vector (Option Subkey) 16 := Vector.ofFn fun i => some ks[i]

/-- A key store in which no entry holds a value. -/
def emptyStore : Vector (Option Subkey) 16 := Vector.replicate 16 none

/-- `KS[i] <- k`, a write of one whole entry (20_memory.md rule R74). -/
def storeEntry (ks : Vector (Option Subkey) 16) (i : Fin 16) (k : Subkey) : Vector (Option Subkey) 16 :=
  ks.set i (some k)

/-- The port moves on to the next cycle. -/
def State.advance (s : State) : State := { s with inputs := s.inputs.tail }

/-- What is left on the port after a cycle in which `cmd_ready` = 0 and `rst` is not asserted: a cycle in which nothing is
driven is over, a presented command waits (30_encoding.md rule R100, log entry 8). -/
def heldInputs : List PortIn → List PortIn
  | .quiet :: tail => tail
  | inputs => inputs

/-- The port in a cycle in which `cmd_ready` = 0: a presented command waits (30_encoding.md rule R100). -/
def State.hold (s : State) : State := { s with inputs := heldInputs s.inputs }

/-- A cycle in which no response is given (`rsp_valid` = 0). -/
def State.silent (s : State) : State := { s with rsp := none }

/-- Reset: the state of 10_state.md rule R32, whatever the state before; what the host drives later is not the FCE's to
clear (70_reset_and_hazards.md rules R250, R252). -/
def State.resetNow (s : State) : State := { State.reset with inputs := s.inputs.tail }

/-- The end of a command's transition: the command that was presented is accepted, so the port moves on. -/
def accepted (o : Host.Outcome State Fault Refusal) : Host.Outcome State Fault Refusal :=
  match o with
  | .next t => .next t.advance
  | .fault r => .fault r
  | .refused r => .refused r

end Sys2Proof.Machine
end

