-- ==== Sys2Proof/Machine/Primitives.lean ====
section
/-! DEFINITION. The five primitives (40_primitives.md), each as a function on fields of its width and, where a command
exposes it, with the width check on the whole port value. -/

namespace Sys2Proof.Machine

/-- `mbit(v, w, p) = v[w - p]`: position `p` counted from 1 at the most significant bit (00_scope.md rule R8). The one place
where a table index becomes a bit number. -/
def mbit {w : Nat} (v : BitVec w) (p : Nat) : Bool := v.getLsbD (w - p)

/-- One turn of the loop of rule R120: `out <- (out << 1) + mbit(v, w, T[k])`. -/
def permuteStep {w : Nat} (n : Nat) (v : BitVec w) (out : BitVec n) (p : Nat) : BitVec n :=
  (out <<< 1) ||| (BitVec.ofBool (mbit v p)).setWidth n

/-- The loop of `permute(v, w, T)` on a `w`-bit value, giving the `n`-bit output (rule R120). -/
def permuteBits {w : Nat} (n : Nat) (table : List Nat) (v : BitVec w) : BitVec n :=
  table.foldl (permuteStep n v) 0#n

/-- The table check of rule R120: every entry is in `[1, w]`. -/
def tableOk (table : List Nat) (w : Nat) : Bool := table.all fun p => decide (1 ≤ p) && decide (p ≤ w)

/-- `permute(v, w, T)` on a port value: the table check, then the width check, then the loop (rules R120, R121). -/
def permute (v : Word64) (w : Nat) (table : List Nat) : Except Cause Word64 :=
  if tableOk table w then
    if fits v w then .ok ((permuteBits table.length table (v.setWidth w)).setWidth 64) else .error .width
  else .error .table

/-- `split(v, hw)` of a `2*hw`-bit field (rule R128). -/
def splitBits (hw : Nat) (v : BitVec (hw + hw)) : BitVec hw × BitVec hw := (v.extractLsb' hw hw, v.setWidth hw)

/-- `split(v, hw)` on a port value (rule R128). -/
def split (v : Word64) (hw : Nat) : Except Cause (Word64 × Word64) :=
  if fits v (2 * hw) then .ok (v >>> hw, BitVec.ofNat 64 (v.toNat % 2 ^ hw)) else .error .width

/-- `merge(left, right, hw)` of two `hw`-bit fields: `left ‖ right` (rule R129). -/
def mergeBits {hw : Nat} (left right : BitVec hw) : BitVec (hw + hw) := left ++ right

/-- `merge(left, right, hw)` on port values (rule R129). -/
def merge (left right : Word64) (hw : Nat) : Except Cause Word64 :=
  if !fits left hw then .error .width
  else if !fits right hw then .error .width
  else .ok (BitVec.ofNat 64 (left.toNat * 2 ^ hw + right.toNat))

/-- `row = 2 * c[5] + c[0]` (rule R130). -/
def sboxRow (c : Chunk) : Nat := 2 * (c.getLsbD 5).toNat + (c.getLsbD 0).toNat

/-- `col = c[4:1]` (rule R130). -/
def sboxCol (c : Chunk) : Nat := (c.extractLsb' 1 4).toNat

/-- `substitute(c, j)` of a 6-bit chunk (rule R130). -/
def substituteBits (c : Chunk) (j : Nat) : Nibble := Rom.sromRead j (16 * sboxRow c + sboxCol c)

/-- `substitute(c, j)` on a port value (rule R130). -/
def substitute (c : Word64) (j : Nat) : Except Cause Word64 :=
  if fits c 6 then .ok ((substituteBits (c.setWidth 6) j).setWidth 64) else .error .width

/-- `rotate_left(v, n)` of a 28-bit field (rule R139): the sum there is of two values with no bit in common. -/
def rotateLeftBits (v : KHalf) (n : Nat) : KHalf := (v <<< n) ||| (v >>> (28 - n))

/-- `rotate_left(v, n)` on a port value (rule R139). -/
def rotateLeft (v : Word64) (n : Nat) : Except Cause Word64 :=
  if fits v 28 then .ok ((rotateLeftBits (v.setWidth 28) n).setWidth 64) else .error .width

end Sys2Proof.Machine
end

