-- ==== Sys2Proof/Machine/RoundFunction.lean ====
section
/-! DEFINITION. The round function `f(r, k)` (42_round_function.md rules R170, R172, R173). -/

namespace Sys2Proof.Machine

/-- `chunk(y, j) = y[47-6*j : 42-6*j]`, chunk 0 the six most significant bits (rule R172). -/
def chunk (y : Subkey) (j : Nat) : Chunk := y.extractLsb' (42 - 6 * j) 6

/-- `concat4(s_0, ..., s_7)`, `s_0` in the four most significant bits (rule R173). -/
def concat4 (s : Nat → Nibble) : Half := s 0 ++ s 1 ++ s 2 ++ s 3 ++ s 4 ++ s 5 ++ s 6 ++ s 7

/-- Stages 3 and 4: each chunk through the box of its number, then the output permutation (rule R170). -/
def substituteAndPermute (y : Subkey) : Half :=
  permuteBits 32 Rom.p (concat4 fun j => substituteBits (chunk y j) j)

/-- `f(r, k)` (rule R170). -/
def roundFunctionBits (r : Half) (k : Subkey) : Half := substituteAndPermute (permuteBits 48 Rom.e r ^^^ k)

/-- `f(r, k)` on port values: WIDTH if `r` does not fit 32 bits or `k` does not fit 48 (rule R170). -/
def roundFunction (r k : Word64) : Except Cause Word64 :=
  if !fits r 32 then .error .width
  else if !fits k 48 then .error .width
  else .ok ((roundFunctionBits (r.setWidth 32) (k.setWidth 48)).setWidth 64)

end Sys2Proof.Machine
end

