-- ==== Sys2Proof/Machine/Cipher.lean ====
section
/-! DEFINITION. The cipher engine and the round unroller as pure functions (43_cipher_engine.md rules R185, R191, R192).
The direction is `false` for encrypt (0) and `true` for decrypt (1). -/

namespace Sys2Proof.Machine

/-- The key-store index of round `j`: `j` to encrypt, `15 - j` to decrypt (rule R191). -/
def subkeyIndex (dir : Bool) (j : Fin 16) : Fin 16 := if dir then j.rev else j

/-- `(left, right) = (right, left XOR f(right, key))`, both from the old halves (rule R185). -/
def feistelRound (k : Subkey) (lr : Half × Half) : Half × Half := (lr.2, lr.1 ^^^ roundFunctionBits lr.2 k)

/-- `(L_0, R_0)`: the halves of the initially permuted block (rule R185, steps 1 and 2). -/
def initialHalves (b : Word64) : Half × Half := splitBits 32 (permuteBits 64 Rom.ip b)

/-- The final swap, `R_16` the high half, and the final permutation (rule R185, steps 4 and 5, rule R192). -/
def finalBlock (lr : Half × Half) : Word64 := permuteBits 64 Rom.fp (mergeBits lr.2 lr.1)

/-- The sixteen rounds, `j` = 0, 1, ..., 15 (rule R185, step 3). -/
def sixteenRounds (ks : Schedule) (dir : Bool) (lr : Half × Half) : Half × Half :=
  (List.finRange 16).foldl (fun x j => feistelRound ks[subkeyIndex dir j] x) lr

/-- `crypt(ks, b, dir)` (rule R185). -/
def crypt (ks : Schedule) (b : Word64) (dir : Bool) : Word64 := finalBlock (sixteenRounds ks dir (initialHalves b))

end Sys2Proof.Machine
end

