-- ==== Sys2Proof/Machine/Crypt.lean ====
section
/-! DEFINITION. The ENC and DEC commands (43_cipher_engine.md rules R186, R187). -/

namespace Sys2Proof.Machine

/-- The working and sequencing registers of the cipher engine as they are when ENC or DEC has ended (rules R186, R187). -/
def State.endCrypt (s : State) : State := { s with l := 0#32, r := 0#32, rc := 0, dir := false, ph := .idle }

/-- The common part of ENC and DEC: NOKEY when `KV` = 0, else `Q0 <- crypt(KS, A, dir)` as one atomic transition. -/
def cryptCommand (dir : Bool) (s : State) : Host.Outcome State Fault Refusal :=
  if s.kv then .next (s.endCrypt.respond (crypt s.schedule s.opA dir) 0#64) else .next (s.raise .nokey)

/-- `ENC` (rule R186). -/
def execEnc (s : State) : Host.Outcome State Fault Refusal := cryptCommand false s

/-- `DEC` (rule R187): the subkeys in reverse order. -/
def execDec (s : State) : Host.Outcome State Fault Refusal := cryptCommand true s

end Sys2Proof.Machine
end

