-- ==== Sys2Proof/Machine/Frnd.lean ====
section
/-! DEFINITION. The FRND command (42_round_function.md rule R171). -/

namespace Sys2Proof.Machine

/-- `FRND` (rule R171): `Q0 <- zext_64(f(A, B))`. The key store is not read. -/
def execFrnd (s : State) : Host.Outcome State Fault Refusal := answerOne (roundFunction s.opA s.opB) s

end Sys2Proof.Machine
end

