-- ==== Sys2Proof/Machine/KeySchedule.lean ====
section
/-! DEFINITION. The key-schedule generator as a pure function (41_key_schedule.md rules R151, R155). The primitives are
applied here to fields that fit by construction, so no step can fault (rule R151). -/

namespace Sys2Proof.Machine

/-- One round of the schedule on the carry state: split, rotate both halves by the same amount, merge (rule R151). -/
def carryRound (amount : Nat) (cd : Carry) : Carry :=
  let halves := splitBits 28 cd
  mergeBits (rotateLeftBits halves.1 amount) (rotateLeftBits halves.2 amount)

/-- The seventeen carry states `CD_0 .. CD_16` (rules R151, R155). -/
def carryState (key : Word64) : Nat → Carry
  | 0 => permuteBits 56 Rom.pc1 key
  | i + 1 => carryRound (Rom.rot i) (carryState key i)

/-- `K_i`, from the state after the rotation of its round (rule R151). -/
def subkeyOf (cd : Carry) : Subkey := permuteBits 48 Rom.pc2 cd

/-- `keysched(key)`: the sixteen subkeys (rule R151). -/
def keysched (key : Word64) : Schedule := Vector.ofFn fun i => subkeyOf (carryState key (i.val + 1))

end Sys2Proof.Machine
end

