-- ==== Sys2Proof/Machine/New.lean ====
section
/-! DEFINITION. The NEW command (41_key_schedule.md rules R150, R158). -/

namespace Sys2Proof.Machine

/-- The working and sequencing registers of the key-schedule generator as they are when NEW has ended (rule R150). -/
def State.endKeygen (s : State) : State := { s with c := 0#28, d := 0#28, rc := 0, ph := .idle }

/-- `NEW`, as one atomic transition (rule R150): all sixteen entries of `KS`, `KV`, and `C`, `D`, `RC`, `PH` back to their
idle values; no result. -/
def execNew (s : State) : Host.Outcome State Fault Refusal :=
  .next ({ s.endKeygen with ks := fullStore (keysched s.opA), kv := true }.respond 0#64 0#64)

end Sys2Proof.Machine
end

