-- ==== Sys2Proof/Machine/Perm.lean ====
section
/-! DEFINITION. The PERM commands (40_primitives.md rules R121 to R127). -/

namespace Sys2Proof.Machine

/-- The common part of the PERM commands: `Q0 <- zext_64(permute(A, w, T))` (rule R121). -/
def permCommand (w : Nat) (table : List Nat) (s : State) : Host.Outcome State Fault Refusal :=
  answerOne (permute s.opA w table) s

/-- `PERM.IP` (rule R122). -/
def execPermIp (s : State) : Host.Outcome State Fault Refusal := permCommand 64 Rom.ip s

/-- `PERM.FP` (rule R123). -/
def execPermFp (s : State) : Host.Outcome State Fault Refusal := permCommand 64 Rom.fp s

/-- `PERM.PC1` (rule R124). -/
def execPermPc1 (s : State) : Host.Outcome State Fault Refusal := permCommand 64 Rom.pc1 s

/-- `PERM.PC2` (rule R125). -/
def execPermPc2 (s : State) : Host.Outcome State Fault Refusal := permCommand 56 Rom.pc2 s

/-- `PERM.E` (rule R126). -/
def execPermE (s : State) : Host.Outcome State Fault Refusal := permCommand 32 Rom.e s

/-- `PERM.P` (rule R127). -/
def execPermP (s : State) : Host.Outcome State Fault Refusal := permCommand 32 Rom.p s

end Sys2Proof.Machine
end

