-- ==== Sys2Proof/Machine/Rotl.lean ====
section
/-! DEFINITION. The ROTL commands (40_primitives.md rules R139 to R141). -/

namespace Sys2Proof.Machine

/-- The common part of the ROTL commands: `Q0 <- zext_64(rotate_left(A, n))` (rules R140, R141). -/
def rotlCommand (n : Nat) (s : State) : Host.Outcome State Fault Refusal := answerOne (rotateLeft s.opA n) s

/-- `ROTL.1` (rule R140). -/
def execRotl1 (s : State) : Host.Outcome State Fault Refusal := rotlCommand 1 s

/-- `ROTL.2` (rule R141). -/
def execRotl2 (s : State) : Host.Outcome State Fault Refusal := rotlCommand 2 s

end Sys2Proof.Machine
end

