-- ==== Sys2Proof/Machine/SplitMerge.lean ====
section
/-! DEFINITION. The SPLIT and MERGE commands (40_primitives.md rules R128, R129). -/

namespace Sys2Proof.Machine

/-- `SPLIT hw` (rule R128): `Q0` the high half, `Q1` the low half. A half width outside 1..32 has no command word: it is
ILLCMD, "not WIDTH". -/
def execSplit (hw : BitVec 6) (s : State) : Host.Outcome State Fault Refusal :=
  if legalHalfWidth hw then answer (split s.opA hw.toNat) s else .next (s.raise .illcmd)

/-- `MERGE hw` (rule R129): `A` the left half, `B` the right half. A half width outside 1..32 is ILLCMD (rule R96). -/
def execMerge (hw : BitVec 6) (s : State) : Host.Outcome State Fault Refusal :=
  if legalHalfWidth hw then answerOne (merge s.opA s.opB hw.toNat) s else .next (s.raise .illcmd)

end Sys2Proof.Machine
end

