-- ==== Sys2Proof/Machine/Subst.lean ====
section
/-! DEFINITION. The SUBST commands (40_primitives.md rules R130 to R138). -/

namespace Sys2Proof.Machine

/-- The common part of the SUBST commands: `Q0 <- zext_64(substitute(A, j))` (rules R131 to R138). -/
def substCommand (j : Nat) (s : State) : Host.Outcome State Fault Refusal := answerOne (substitute s.opA j) s

/-- `SUBST.S1` (rule R131). -/
def execSubstS1 (s : State) : Host.Outcome State Fault Refusal := substCommand 0 s

/-- `SUBST.S2` (rule R132). -/
def execSubstS2 (s : State) : Host.Outcome State Fault Refusal := substCommand 1 s

/-- `SUBST.S3` (rule R133). -/
def execSubstS3 (s : State) : Host.Outcome State Fault Refusal := substCommand 2 s

/-- `SUBST.S4` (rule R134). -/
def execSubstS4 (s : State) : Host.Outcome State Fault Refusal := substCommand 3 s

/-- `SUBST.S5` (rule R135). -/
def execSubstS5 (s : State) : Host.Outcome State Fault Refusal := substCommand 4 s

/-- `SUBST.S6` (rule R136). -/
def execSubstS6 (s : State) : Host.Outcome State Fault Refusal := substCommand 5 s

/-- `SUBST.S7` (rule R137). -/
def execSubstS7 (s : State) : Host.Outcome State Fault Refusal := substCommand 6 s

/-- `SUBST.S8` (rule R138). -/
def execSubstS8 (s : State) : Host.Outcome State Fault Refusal := substCommand 7 s

end Sys2Proof.Machine
end

