-- ==== Sys2Proof/Machine/Dispatch.lean ====
section
/-! DEFINITION. One arm per instruction of 30_encoding.md rule R93, each one call of its meaning. -/

namespace Sys2Proof.Machine

/-- The command of an instruction, applied to the operands on the port as one atomic transition (rule R90). -/
def exec (i : Instr) (s : State) : Host.Outcome State Fault Refusal :=
  match i with
  | .permIp => Sys2Proof.Machine.execPermIp s
  | .permFp => Sys2Proof.Machine.execPermFp s
  | .permPc1 => Sys2Proof.Machine.execPermPc1 s
  | .permPc2 => Sys2Proof.Machine.execPermPc2 s
  | .permE => Sys2Proof.Machine.execPermE s
  | .permP => Sys2Proof.Machine.execPermP s
  | .split hw => Sys2Proof.Machine.execSplit hw s
  | .merge hw => Sys2Proof.Machine.execMerge hw s
  | .substS1 => Sys2Proof.Machine.execSubstS1 s
  | .substS2 => Sys2Proof.Machine.execSubstS2 s
  | .substS3 => Sys2Proof.Machine.execSubstS3 s
  | .substS4 => Sys2Proof.Machine.execSubstS4 s
  | .substS5 => Sys2Proof.Machine.execSubstS5 s
  | .substS6 => Sys2Proof.Machine.execSubstS6 s
  | .substS7 => Sys2Proof.Machine.execSubstS7 s
  | .substS8 => Sys2Proof.Machine.execSubstS8 s
  | .rotl1 => Sys2Proof.Machine.execRotl1 s
  | .rotl2 => Sys2Proof.Machine.execRotl2 s
  | .new => Sys2Proof.Machine.execNew s
  | .frnd => Sys2Proof.Machine.execFrnd s
  | .enc => Sys2Proof.Machine.execEnc s
  | .dec => Sys2Proof.Machine.execDec s

end Sys2Proof.Machine
end

