-- ==== Sys2Proof/Machine/Sequencer.lean ====
section
/-! DEFINITION. The step sequences inside NEW, ENC and DEC, one round a step (41_key_schedule.md rules R152 to R154,
43_cipher_engine.md rules R188 to R190), and the cycles in which no command is accepted. -/

namespace Sys2Proof.Machine

/-- Step K0 (rule R152): `KV <- 0`, `(C, D) <- split(permute(A, 64, PC1), 28)`, `RC <- 0`, `PH <- KEYGEN`. From here to
Kend the key store "holds no value" that anything may rely on, so its entries are left without one (log entry 5). -/
def stepK0 (key : Word64) (s : State) : State :=
  let halves := splitBits 28 (permuteBits 56 Rom.pc1 key)
  { s with kv := false, c := halves.1, d := halves.2, rc := 0, ph := .keygen, ks := emptyStore }

/-- Step K(i), `i` = `RC` (rule R153): both halves rotated by `ROT[i]`, then `KS[i]` from the new halves. -/
def stepK (i : Fin 16) (s : State) : State :=
  let c' := rotateLeftBits s.c (Rom.rot i)
  let d' := rotateLeftBits s.d (Rom.rot i)
  { s with c := c', d := d', ks := storeEntry s.ks i (subkeyOf (mergeBits c' d')), rc := i.succ }

/-- Step Kend (rule R154): the registers cleared, `KV <- 1`, and the response. -/
def stepKend (s : State) : State := { s.endKeygen with kv := true }.respond 0#64 0#64

/-- Step C0 (rule R188): the halves of the initially permuted block, `DIR`, `RC <- 0`, `PH <- CRYPT`. -/
def stepC0 (block : Word64) (dir : Bool) (s : State) : State :=
  let halves := initialHalves block
  { s with l := halves.1, r := halves.2, dir := dir, rc := 0, ph := .crypt }

/-- Step C(j), `j` = `RC`: one Feistel round with one read of the key store (rule R189). -/
def stepC (j : Fin 16) (s : State) : State :=
  let i := subkeyIndex s.dir j
  let lr := feistelRound (entryValue i s.ks[i]) (s.l, s.r)
  { s with l := lr.1, r := lr.2, rc := j.succ }

/-- Step Cend (rule R190): the response `permute(merge(R, L, 32), 64, FP)`, then the registers cleared. -/
def stepCend (s : State) : State := s.endCrypt.respond (finalBlock (s.l, s.r)) 0#64

/-- The round step enabled in the state's phase while `RC` is below 16 (rules R153, R189); nothing otherwise. -/
def roundStep (s : State) : State :=
  if h : s.rc.val < 16 then
    match s.ph with
    | .idle => s
    | .keygen => stepK ⟨s.rc.val, h⟩ s
    | .crypt => stepC ⟨s.rc.val, h⟩ s
  else s

/-- `n` round steps, stopping at `RC` = 16. -/
def roundSteps : Nat → State → State
  | 0, s => s
  | n + 1, s => roundSteps n (roundStep s)

/-- The step that ends the command in progress, enabled when `RC` = 16 (rules R154, R190). -/
def endStep (s : State) : State :=
  match s.ph with
  | .idle => s
  | .keygen => stepKend s
  | .crypt => stepCend s

/-- One internal step of a command in progress: `UNROLL` rounds while `RC` is below 16, else the end of the command (rules
R152 to R154, R188 to R191). `rsp_valid` is 1 only after the end step. -/
def internalStep (u : Config.Unroll) (s : State) : State :=
  if s.rc.val < 16 then roundSteps u.rounds s.silent else endStep s.silent

/-- A cycle in which a command is in progress and `rst` is not asserted: one internal step; a presented command waits. -/
def busyCycle (u : Config.Unroll) (s : State) : State := internalStep u s.hold

/-- A cycle in which the FCE is in `IDLE` and nothing is presented: "it simply waits for a command, with all state kept"
(60_exceptions.md rule R224). -/
def waitCycle (s : State) : State := s.advance.silent

end Sys2Proof.Machine
end

