-- ==== Sys2Proof/Machine/Cycle.lean ====
section
/-! DEFINITION. The two machines over one state. `commandStep` serves a whole command in one transition (30_encoding.md rule
R90); `tick` is one clock cycle, in which NEW, ENC and DEC only start and then run `UNROLL` rounds a cycle (10_state.md rule
R26). Both take the same inputs and agree at the end of every command (rules R150, R186, R187). -/

namespace Sys2Proof.Machine

/-- Acceptance of a command, whole: ILLCMD for an illegal word before any operand is looked at (30_encoding.md rule R96),
else the instruction's command. -/
def commandWhole (cmd : Command) (s : State) : Host.Outcome State Fault Refusal :=
  match decode cmd.cw with
  | .ok i => exec i s
  | .error _ => .next (s.raise .illcmd)

/-- ENC and DEC in the cycle of acceptance: NOKEY when `KV` = 0, else step C0 (43_cipher_engine.md rule R188). -/
def startCrypt (dir : Bool) (s : State) : State :=
  if s.kv then (stepC0 s.opA dir s).silent else s.raise .nokey

/-- The cycle of acceptance: NEW, ENC and DEC take their first step; the other commands "complete without leaving `IDLE`"
(10_state.md rule R24). -/
def commandStart (cmd : Command) (s : State) : Host.Outcome State Fault Refusal :=
  match decode cmd.cw with
  | .ok .new => .next (stepK0 s.opA s).silent
  | .ok .enc => .next (startCrypt false s)
  | .ok .dec => .next (startCrypt true s)
  | .ok i => exec i s
  | .error _ => .next (s.raise .illcmd)

/-- One cycle of the port with a given treatment of an accepted command: reset wins over everything, a command is accepted
only in `IDLE` and else waits (30_encoding.md rule R100, 70_reset_and_hazards.md rules R250, R252). -/
def portCycle (accept : Command → State → Host.Outcome State Fault Refusal) (u : Config.Unroll) (s : State) :
    Host.Outcome State Fault Refusal :=
  match s.now with
  | .reset => .next s.resetNow
  | .quiet => if busy s then .next (busyCycle u s) else .next (waitCycle s)
  | .command cmd => if busy s then .next (busyCycle u s) else accepted (accept cmd s)

/-- One transition at the level of commands (30_encoding.md rule R90). -/
def commandStep (s : State) : Host.Outcome State Fault Refusal := portCycle commandWhole .one s

/-- One clock cycle with `u` rounds an internal step (10_state.md rule R26, 43_cipher_engine.md rule R191). -/
def tick (u : Config.Unroll) (s : State) : Host.Outcome State Fault Refusal := portCycle commandStart u s

/-- `n` clock cycles. -/
def ticks (u : Config.Unroll) : Nat → State → Host.Outcome State Fault Refusal
  | 0, s => .next s
  | n + 1, s =>
    match tick u s with
    | .next t => ticks u n t
    | .fault r => .fault r
    | .refused r => .refused r

end Sys2Proof.Machine
end

