-- ==== Sys2Proof/Machine/Step.lean ====
section
/-! DEFINITION. The machine's step, and a command word placed where it takes its next command. -/

namespace Sys2Proof.Machine

/-- One step: one transition at the level of commands (30_encoding.md rule R90). In `IDLE` a presented command is executed
whole; a state in the middle of a command takes its next internal step. -/
def step (s : State) : Host.Outcome State Fault Refusal := commandStep s

/-- The state with the given command word presented on the port in this cycle, with the operands that are on the port
(0 where there is no command), and the FCE in `IDLE` so that it is accepted (log entry 6). -/
def State.withFetchWord (s : State) (nbits w : Nat) : State :=
  { s with
    ph := .idle
    inputs := .command { cw := BitVec.ofNat 16 (w % 2 ^ nbits), a := s.opA, b := s.opB } :: s.inputs.tail }

end Sys2Proof.Machine
end

