-- ==== Sys2Proof/Safety.lean ====
section
/-! DEFINITION. Runs of the FCE (70_reset_and_hazards.md rule R260), the clean runs (10_state.md rule R29) and the invariant
of its states (10_state.md rules R24, R25, R27, R28, R31, R33). -/

namespace Sys2Proof.Machine

/-- The state with one command presented and nothing after it. -/
def State.present (s : State) (cmd : Command) : State := { s with inputs := [.command cmd] }

/-- One transaction (30_encoding.md rule R90): the state after it, which holds its response. -/
def transact (cmd : Command) (s : State) : Host.Outcome State Fault Refusal := step (s.present cmd)

/-- A run: a finite sequence of commands applied in order, each to the state left by the one before; it gives the responses
and the last state (rule R260). `none` would be a step that stops. -/
def runCommands : List Command → State → Option (List (Option Response) × State)
  | [], s => some ([], s)
  | cmd :: rest, s =>
    match transact cmd s with
    | .next t =>
      match runCommands rest t with
      | some (rs, u) => some (t.rsp :: rs, u)
      | none => none
    | .fault _ => none
    | .refused _ => none

/-- A clean state: no operation since reset was fatal, `FLT` = 0 (10_state.md rule R29). -/
abbrev State.Clean (s : State) : Prop := s.flt = 0#4

/-- The key store holds the schedule of some key, every entry of it (10_state.md rule R33). -/
def State.Keyed (s : State) : Prop := ∃ key : Word64, s.ks = fullStore (keysched key)

/-- `IDLE`: the working and sequencing registers are 0 (rule R31); with `KV` = 1 the store is keyed (rule R33), with
`KV` = 0 no entry holds a value (rule R27). -/
def State.IdleInv (s : State) : Prop :=
  s.l = 0#32 ∧ s.r = 0#32 ∧ s.c = 0#28 ∧ s.d = 0#28 ∧ s.rc = 0 ∧ s.dir = false ∧
    (s.kv = true → s.Keyed) ∧ (s.kv = false → s.ks = emptyStore)

/-- `KEYGEN` at `RC` = i: `KV` = 0, `C ‖ D` = `CD_i` of some key, the entries below i are its subkeys (10_state.md rules R26,
R28, 41_key_schedule.md rules R152, R153), and the others hold no value, which no rule says of step K0: it is log entry 5,
DEDUCED. -/
def State.KeygenInv (s : State) : Prop :=
  s.l = 0#32 ∧ s.r = 0#32 ∧ s.dir = false ∧ s.kv = false ∧
    ∃ key : Word64, mergeBits s.c s.d = carryState key s.rc.val ∧
      ∀ i : Fin 16, s.ks[i] = if i.val < s.rc.val then some (keysched key)[i] else none

/-- `CRYPT`: `KV` = 1, the store is keyed, `C`, `D` are 0, and `(L, R)` is what the first `RC` rounds make of the halves of
some block (10_state.md rule R26, 43_cipher_engine.md rules R188, R189). -/
def State.CryptInv (s : State) : Prop :=
  s.c = 0#28 ∧ s.d = 0#28 ∧ s.kv = true ∧ s.Keyed ∧
    ∃ block : Word64, (s.l, s.r) =
      ((List.finRange 16).take s.rc.val).foldl
        (fun x j => feistelRound s.schedule[subkeyIndex s.dir j] x) (initialHalves block)

/-- The invariant of the FCE: `FLT.T` is 0 (60_exceptions.md rule R212), and the invariant of the phase. -/
def State.Inv (s : State) : Prop :=
  s.flt.getLsbD 1 = false ∧
    match s.ph with
    | .idle => s.IdleInv
    | .keygen => s.KeygenInv
    | .crypt => s.CryptInv

end Sys2Proof.Machine
end

