-- ==== Sys2Proof/Certificates/Slice0/Obligations.lean ====
section
/-! DEFINITION. The statements about the model, one `def Obligations.<Name>` for each, with the predicates they share under
`Claims`. A statement about a next state gives that state field by field as an update of the old one, so its frame is in
it: a field that is not named is unchanged. -/

open Sys2Proof Sys2Proof.Machine

/-! ## Shared predicates -/

/-- The instruction completes with `ERR` = 0 and the two results, and no other field of the state changes. -/
def Claims.Completes (i : Instr) (s : State) (q0 q1 : Word64) : Prop :=
  exec i s = .next { s with rsp := some { err := .ok, q0 := q0, q1 := q1 } }

/-- The state after a fault: the response is the fault with `Q0` = `Q1` = 0, the bit of `FLT` is set, nothing else changes
(60_exceptions.md rule R214). The masks are those of the `FLT` column of rule R216. -/
def Claims.faulted (s : State) (c : Cause) : State :=
  { s with
    rsp := some { err := .fault c, q0 := 0#64, q1 := 0#64 }
    flt := s.flt ||| (match c with | .width => 0b0001#4 | .table => 0b0010#4 | .illcmd => 0b0100#4 | .nokey => 0b1000#4) }

/-- The instruction ends in the fault, which is a next state. -/
def Claims.EndsInFault (i : Instr) (s : State) (c : Cause) : Prop := exec i s = .next (Claims.faulted s c)

/-- The word is one command and decodes to the instruction. -/
def Claims.HasWord (i : Instr) (cw : CmdWord) : Prop := decode cw = .ok i ∧ encode i = cw

/-- What the rules R122 to R127 say of a PERM instruction on an operand that fits: output position `k+1` of `n` gets input
position `T[k]` of `w`, the result fits in `n` bits, and the listed operands give the listed results. -/
def Claims.PermResult (i : Instr) (cw : CmdWord) (w n : Nat) (table : List Nat) (cases : List (Word64 × Word64)) : Prop :=
  Claims.HasWord i cw ∧
  (∀ s : State, s.opA.toNat < 2 ^ w → ∃ q : Word64, Claims.Completes i s q 0#64 ∧ q.toNat < 2 ^ n ∧
    ∀ k < n, q.getLsbD (n - 1 - k) = s.opA.getLsbD (w - Rom.promRead table k)) ∧
  (∀ s : State, ∀ aq ∈ cases, s.opA = aq.1 → Claims.Completes i s aq.2 0#64)

/-- An operand of `w` bits or more than `w` bits: WIDTH. -/
def Claims.WideFaults (i : Instr) (w : Nat) : Prop := ∀ s : State, 2 ^ w ≤ s.opA.toNat → Claims.EndsInFault i s .width

/-- The positions outside the mask do not reach the result: clearing them gives the same result. -/
def Claims.MaskedOut (i : Instr) (mask : Word64) : Prop :=
  ∀ s t : State, ∀ q : Word64, t.opA = s.opA &&& mask → Claims.Completes i s q 0#64 → Claims.Completes i t q 0#64

/-- What the rules R131 to R138 say of a SUBST instruction: the entry at `32*c[5] + 16*c[0] + c[4:1]` of its box, 4 bits, and
WIDTH from 64 on. -/
def Claims.SubstResult (i : Instr) (cw : CmdWord) (box : List Nat) (cases : List (Nat × Nat)) : Prop :=
  Claims.HasWord i cw ∧
  (∀ s : State, s.opA.toNat < 64 → ∃ q : Word64, Claims.Completes i s q 0#64 ∧ q.toNat < 16 ∧
    q.toNat = box.getD (32 * (s.opA.toNat / 32 % 2) + 16 * (s.opA.toNat % 2) + s.opA.toNat / 2 % 16) 0) ∧
  (∀ s : State, 64 ≤ s.opA.toNat → Claims.EndsInFault i s .width) ∧
  (∀ s : State, ∀ cq ∈ cases, s.opA = BitVec.ofNat 64 cq.1 → Claims.Completes i s (BitVec.ofNat 64 cq.2) 0#64)

/-- What the rules R139 to R141 say of a ROTL instruction: `y[(i + n) mod 28] = v[i]`, in numbers
`((v << n) mod 2^28) + (v >> (28 - n))`, and WIDTH from 2^28 on. -/
def Claims.RotlResult (i : Instr) (cw : CmdWord) (n : Nat) (cases : List (Word64 × Word64)) : Prop :=
  Claims.HasWord i cw ∧
  (∀ s : State, s.opA.toNat < 2 ^ 28 → ∃ q : Word64, Claims.Completes i s q 0#64 ∧
    q.toNat = s.opA.toNat * 2 ^ n % 2 ^ 28 + s.opA.toNat / 2 ^ (28 - n) ∧
    q.toNat < 2 ^ 28 ∧ ∀ k < 28, q.getLsbD ((k + n) % 28) = s.opA.getLsbD k) ∧
  (∀ s : State, 2 ^ 28 ≤ s.opA.toNat → Claims.EndsInFault i s .width) ∧
  (∀ s : State, ∀ aq ∈ cases, s.opA = aq.1 → Claims.Completes i s aq.2 0#64)

/-- The FCE waits in `IDLE` and the command is on the port, the given inputs after it. -/
def Claims.Presented (s : State) (cmd : Command) (rest : List PortIn) : Prop :=
  s.ph = .idle ∧ s.inputs = .command cmd :: rest

/-- The host asserts no `rst` in the next `n` cycles of a busy FCE, `heldInputs` being what one such cycle leaves on the
port: entries that drive nothing go by, a presented command waits. -/
abbrev Claims.NoResetFor (n : Nat) (inputs : List PortIn) : Prop := ∀ k < n, (heldInputs^[k] inputs).head? ≠ some .reset

/-- The clock cycles that end the command in progress in this model: one for each `UNROLL` rounds that are left of the
sixteen, and one for its end step. The count is the model's (log entry 10, DESIGN CHOICE; rule R259 fixes none). -/
def Claims.cyclesLeft (u : Config.Unroll) (rc : Nat) : Nat := (16 - rc + u.rounds - 1) / u.rounds + 1

/-! ## The primitive commands -/

/-- Rules R122 and R123: `PERM.IP` and `PERM.FP`. -/
def Obligations.PermIpAndFp : Prop :=
  Claims.PermResult .permIp 0x1000#16 64 64 Rom.ip
    [(0#64, 0#64), (0xFFFFFFFFFFFFFFFF#64, 0xFFFFFFFFFFFFFFFF#64), (0x8000000000000000#64, 0x0000000001000000#64),
     (1#64, 0x0000008000000000#64), (0x0123456789ABCDEF#64, 0xCC00CCFFF0AAF0AA#64)] ∧
  Claims.PermResult .permFp 0x1001#16 64 64 Rom.fp
    [(0#64, 0#64), (0xFFFFFFFFFFFFFFFF#64, 0xFFFFFFFFFFFFFFFF#64), (0x8000000000000000#64, 0x40#64),
     (1#64, 0x0200000000000000#64), (0xCC00CCFFF0AAF0AA#64, 0x0123456789ABCDEF#64),
     (0x0123456789ABCDEF#64, 0xFF330FAA00330FAA#64)] ∧
  (∀ s t : State, ∀ q : Word64, t.opA = q → Claims.Completes .permIp s q 0#64 → Claims.Completes .permFp t s.opA 0#64) ∧
  (∀ s t : State, ∀ q : Word64, t.opA = q → Claims.Completes .permFp s q 0#64 → Claims.Completes .permIp t s.opA 0#64)

/-- Rules R124 and R125: `PERM.PC1` and `PERM.PC2`, the positions they drop, and WIDTH. -/
def Obligations.PermPc1AndPc2 : Prop :=
  Claims.PermResult .permPc1 0x1002#16 64 56 Rom.pc1
    [(0#64, 0#64), (0x0101010101010101#64, 0#64), (1#64, 0#64), (0x8000000000000000#64, 0x01000000000000#64),
     (0xFFFFFFFFFFFFFFFF#64, 0xFFFFFFFFFFFFFF#64), (0xFFFFFFFFFFFFFB2D#64, 0x7F7FFF77FBFFFF#64)] ∧
  Claims.MaskedOut .permPc1 0xFEFEFEFEFEFEFEFE#64 ∧
  Claims.PermResult .permPc2 0x1003#16 56 48 Rom.pc2
    [(0xFFFFFFFFFFFFFF#64, 0xFFFFFFFFFFFF#64), (0x80000000000000#64, 0x080000000000#64), (1#64, 0x000000000100#64),
     (0x7F7FFF77FBFFFF#64, 0xF7FFFFFFFFFD#64)] ∧
  Claims.MaskedOut .permPc2 0xFF7FBB7FDBDFFB#64 ∧
  Claims.WideFaults .permPc2 56

/-- Rules R126 and R127: `PERM.E` and `PERM.P`, and WIDTH. -/
def Obligations.PermEAndP : Prop :=
  Claims.PermResult .permE 0x1004#16 32 48 Rom.e
    [(0x80000000#64, 0x400000000001#64), (1#64, 0x800000000002#64), (0xFFFFFFFF#64, 0xFFFFFFFFFFFF#64),
     (0xF0AAF0AA#64, 0x7A15557A1555#64)] ∧
  Claims.WideFaults .permE 32 ∧
  (∀ p ∈ [1, 4, 5, 8, 9, 12, 13, 16, 17, 20, 21, 24, 25, 28, 29, 32], Rom.e.count p = 2) ∧
  Claims.PermResult .permP 0x1005#16 32 32 Rom.p
    [(0x80000000#64, 0x00800000#64), (1#64, 0x00000800#64), (0xFFFFFFFF#64, 0xFFFFFFFF#64),
     (0x5C82B597#64, 0x234AA9BB#64)] ∧
  Claims.WideFaults .permP 32

/-- Rule R128: `SPLIT hw`. -/
def Obligations.SplitHalves : Prop :=
  (∀ hw : BitVec 6, legalHalfWidth hw →
    Claims.HasWord (.split hw) (0x2000#16 + hw.setWidth 16) ∧
    (∀ s : State, s.opA.toNat < 2 ^ (2 * hw.toNat) → ∃ q0 q1 : Word64, Claims.Completes (.split hw) s q0 q1 ∧
      q0.toNat = s.opA.toNat / 2 ^ hw.toNat ∧ q1.toNat = s.opA.toNat % 2 ^ hw.toNat) ∧
    (∀ s : State, 2 ^ (2 * hw.toNat) ≤ s.opA.toNat → Claims.EndsInFault (.split hw) s .width)) ∧
  (∀ hw : BitVec 6, ¬ legalHalfWidth hw → ∀ (s : State) (a b : Word64) (rest : List PortIn), Claims.Presented s ⟨0x2000#16 + hw.setWidth 16, a, b⟩ rest →
    step s = .next { Claims.faulted s .illcmd with inputs := rest }) ∧
  (∀ s : State, s.opA = 0x7F7FFF77FBFFFF#64 → Claims.Completes (.split 28#6) s 0x7F7FFF7#64 0x7FBFFFF#64) ∧
  (∀ s : State, s.opA = 0x0CC4302010C4E870#64 → Claims.Completes (.split 32#6) s 0x0CC43020#64 0x10C4E870#64)

/-- Rule R129: `MERGE hw`. -/
def Obligations.MergeHalves : Prop :=
  (∀ hw : BitVec 6, legalHalfWidth hw →
    Claims.HasWord (.merge hw) (0x3000#16 + hw.setWidth 16) ∧
    (∀ s : State, s.opA.toNat < 2 ^ hw.toNat → s.opB.toNat < 2 ^ hw.toNat → ∃ q : Word64,
      Claims.Completes (.merge hw) s q 0#64 ∧ q.toNat = s.opA.toNat * 2 ^ hw.toNat + s.opB.toNat ∧
      q.toNat < 2 ^ (2 * hw.toNat)) ∧
    (∀ s : State, 2 ^ hw.toNat ≤ s.opA.toNat ∨ 2 ^ hw.toNat ≤ s.opB.toNat →
      Claims.EndsInFault (.merge hw) s .width)) ∧
  (∀ s : State, s.opA = 0xFEFFFEE#64 → s.opB = 0xFF7FFFE#64 →
    Claims.Completes (.merge 28#6) s 0xFEFFFEEFF7FFFE#64 0#64) ∧
  (∀ s : State, s.opA = 0x48E68E55#64 → s.opB = 0xCF903651#64 →
    Claims.Completes (.merge 32#6) s 0x48E68E55CF903651#64 0#64)

/-- Rule R142: "These must round-trip": merging what SPLIT gives returns the value. -/
def Obligations.SplitMergeRoundTrip : Prop :=
  ∀ hw : BitVec 6, legalHalfWidth hw → ∀ s : State, s.opA.toNat < 2 ^ (2 * hw.toNat) →
    ∃ q0 q1 : Word64, Claims.Completes (.split hw) s q0 q1 ∧
      ∀ t : State, t.opA = q0 → t.opB = q1 → Claims.Completes (.merge hw) t s.opA 0#64

/-- Two inferences of the spec about the primitives, each marked as derived there: splitting what MERGE gives returns the
two halves (40_primitives.md section 2), and two rotations by 1 equal one rotation by 2 (section 4). -/
def Obligations.PrimitiveInferences : Prop :=
  (∀ hw : BitVec 6, legalHalfWidth hw → ∀ s : State, s.opA.toNat < 2 ^ hw.toNat → s.opB.toNat < 2 ^ hw.toNat →
    ∃ q : Word64, Claims.Completes (.merge hw) s q 0#64 ∧
      ∀ t : State, t.opA = q → Claims.Completes (.split hw) t s.opA s.opB) ∧
  (∀ s : State, s.opA.toNat < 2 ^ 28 → ∃ p q : Word64, Claims.Completes .rotl1 s p 0#64 ∧
    (∀ t : State, t.opA = p → Claims.Completes .rotl1 t q 0#64) ∧
    ∀ u : State, u.opA = s.opA → Claims.Completes .rotl2 u q 0#64)

/-- Rules R131 to R138: the eight `SUBST` instructions. -/
def Obligations.SubstLookups : Prop :=
  Claims.SubstResult .substS1 0x4000#16 Rom.s1
    [(0, 14), (1, 0), (2, 4), (0x20, 4), (0x21, 15), (0x1E, 7), (0x3F, 13), (0x1B, 5)] ∧
  Claims.SubstResult .substS2 0x4001#16 Rom.s2
    [(0, 15), (1, 3), (2, 1), (0x20, 0), (0x21, 13), (0x1E, 10), (0x3F, 9), (0x1B, 9)] ∧
  Claims.SubstResult .substS3 0x4002#16 Rom.s3
    [(0, 10), (1, 13), (2, 0), (0x20, 13), (0x21, 1), (0x1E, 8), (0x3F, 12), (0x1B, 0xB)] ∧
  Claims.SubstResult .substS4 0x4003#16 Rom.s4
    [(0, 7), (1, 13), (2, 13), (0x20, 10), (0x21, 3), (0x1E, 15), (0x3F, 14), (0x1B, 0xA)] ∧
  Claims.SubstResult .substS5 0x4004#16 Rom.s5
    [(0, 2), (1, 14), (2, 12), (0x20, 4), (0x21, 11), (0x1E, 9), (0x3F, 3), (0x1B, 9)] ∧
  Claims.SubstResult .substS6 0x4005#16 Rom.s6
    [(0, 12), (1, 10), (2, 1), (0x20, 9), (0x21, 4), (0x1E, 11), (0x3F, 13), (0x1B, 0xB)] ∧
  Claims.SubstResult .substS7 0x4006#16 Rom.s7
    [(0, 4), (1, 13), (2, 11), (0x20, 1), (0x21, 6), (0x1E, 1), (0x3F, 12), (0x1B, 0xF)] ∧
  Claims.SubstResult .substS8 0x4007#16 Rom.s8
    [(0, 13), (1, 1), (2, 2), (0x20, 7), (0x21, 2), (0x1E, 7), (0x3F, 11), (0x1B, 0xE)]

/-- Rules R139 to R141: `ROTL.1` and `ROTL.2`; there is no word for another amount. -/
def Obligations.RotateLeft : Prop :=
  Claims.RotlResult .rotl1 0x5001#16 1
    [(0#64, 0#64), (0xFFFFFFF#64, 0xFFFFFFF#64), (0x8000000#64, 1#64), (1#64, 2#64), (0x7F7FFF7#64, 0xFEFFFEE#64)] ∧
  Claims.RotlResult .rotl2 0x5002#16 2
    [(0#64, 0#64), (0xFFFFFFF#64, 0xFFFFFFF#64), (0x8000000#64, 2#64), (0xC000000#64, 3#64), (0x4000000#64, 1#64),
     (0xCE682B8#64, 0x39A0AE3#64)] ∧
  (∀ n : BitVec 6, n ≠ 1#6 → n ≠ 2#6 → decode (0x5000#16 + n.setWidth 16) = .error .illegalSelector)

/-! ## The key schedule and NEW -/

/-- Rule R150: `NEW`, every register it writes and, as an update of the old state, all it leaves. -/
def Obligations.NewBuildsSchedule : Prop :=
  Claims.HasWord .new 0x6000#16 ∧
  (∀ s : State, exec .new s = .next
    { s with
      ks := Vector.ofFn fun i => some (keysched s.opA)[i]
      kv := true
      c := 0#28
      d := 0#28
      rc := 0
      ph := .idle
      rsp := some { err := .ok, q0 := 0#64, q1 := 0#64 } }) ∧
  (∀ i : Fin 16, (keysched 0#64)[i] = 0#48 ∧ (keysched 0x0101010101010101#64)[i] = 0#48 ∧
    (keysched 0xFFFFFFFFFFFFFFFF#64)[i] = 0xFFFFFFFFFFFF#48 ∧
    (keysched 0xFEFEFEFEFEFEFEFE#64)[i] = 0xFFFFFFFFFFFF#48) ∧
  (keysched 0xFFFFFFFFFFFFFB2D#64)[0] = 0xEEFFBFEFFEFF#48 ∧
  (keysched 0xFFFFFFFFFFFFFB2D#64)[1] = 0xFFF7E7FBFFFB#48 ∧
  (keysched 0xFFFFFFFFFFFFFB2D#64)[15] = 0xF7FFFFFFFFFD#48

/-- Rules R151 and R155: the seventeen carry states as a sequence, the halves rotated apart by the same amount `ROT[i]`, and
each subkey from the state after its round. -/
def Obligations.KeyScheduleSequence : Prop :=
  ∀ key : Word64, ∃ cd : Nat → Carry,
    (∀ k < 56, (cd 0).getLsbD (55 - k) = key.getLsbD (64 - Rom.promRead Rom.pc1 k)) ∧
    (∀ i < 16,
      (∀ b < 28, (cd (i + 1)).getLsbD ((b + Rom.rot i) % 28) = (cd i).getLsbD b) ∧
      (∀ b < 28, (cd (i + 1)).getLsbD (28 + (b + Rom.rot i) % 28) = (cd i).getLsbD (28 + b))) ∧
    (∀ i : Fin 16, ∀ k < 48,
      (keysched key)[i].getLsbD (47 - k) = (cd (i.val + 1)).getLsbD (56 - Rom.promRead Rom.pc2 k))

/-- The subkeys in closed form: each half of `CD_0` rotated by the sum of the amounts up to its round, then PC-2. -/
def Obligations.SubkeyClosedForm : Prop :=
  ∀ key : Word64, ∀ i : Fin 16,
    (keysched key)[i] = permuteBits 48 Rom.pc2
      (((permuteBits 56 Rom.pc1 key).extractLsb' 28 28).rotateLeft
          ([1, 2, 4, 6, 8, 10, 12, 14, 15, 17, 19, 21, 23, 25, 27, 28].getD i.val 0) ++
        ((permuteBits 56 Rom.pc1 key).extractLsb' 0 28).rotateLeft
          ([1, 2, 4, 6, 8, 10, 12, 14, 15, 17, 19, 21, 23, 25, 27, 28].getD i.val 0))

/-- The spec's inference R156: `CD_16 = CD_0`, so `K_15` is PC-2 of PC-1 of the key. -/
def Obligations.CarryStateReturns : Prop :=
  ∀ key : Word64, carryState key 16 = carryState key 0 ∧
    (keysched key)[15] = permuteBits 48 Rom.pc2 (permuteBits 56 Rom.pc1 key)

/-- The spec's inferences R157 and R196 (a): keys that differ only in parity bits have one schedule, and after their NEW
every state is the same. -/
def Obligations.ParityBitsIgnored : Prop :=
  ∀ k k' : Word64, k &&& 0xFEFEFEFEFEFEFEFE#64 = k' &&& 0xFEFEFEFEFEFEFEFE#64 →
    keysched k = keysched k' ∧
    ∀ (s : State) (b b' : Word64), s.ph = .idle → transact ⟨0x6000#16, k, b⟩ s = transact ⟨0x6000#16, k', b'⟩ s

/-- Rule R158 (and rule R78 for what it says of NEW): after a NEW every later ENC and DEC uses its schedule, as long as no
other NEW comes between, whatever the commands between are. -/
def Obligations.ScheduleLastsUntilNextNew : Prop :=
  ∀ s : State, s.ph = .idle → ∀ key b block b' : Word64, ∀ between : List Command,
    (∀ cmd ∈ between, decode cmd.cw ≠ .ok .new) →
    (∃ rs t, runCommands (⟨0x6000#16, key, b⟩ :: between) s = some (rs, t) ∧
      t.ks = (Vector.ofFn fun i => some (keysched key)[i]) ∧ t.kv = true) ∧
    (∃ rs t, runCommands (⟨0x6000#16, key, b⟩ :: (between ++ [⟨0x8000#16, block, b'⟩])) s = some (rs, t) ∧
      t.rsp = some { err := .ok, q0 := crypt (keysched key) block false, q1 := 0#64 }) ∧
    (∃ rs t, runCommands (⟨0x6000#16, key, b⟩ :: (between ++ [⟨0x9000#16, block, b'⟩])) s = some (rs, t) ∧
      t.rsp = some { err := .ok, q0 := crypt (keysched key) block true, q1 := 0#64 })

/-! ## The round function and FRND -/

/-- Rule R171: `FRND`. -/
def Obligations.FrndEvaluatesRoundFunction : Prop :=
  Claims.HasWord .frnd 0x7000#16 ∧
  (∀ s : State, s.opA.toNat < 2 ^ 32 → s.opB.toNat < 2 ^ 48 →
    Claims.Completes .frnd s ((roundFunctionBits (s.opA.setWidth 32) (s.opB.setWidth 48)).setWidth 64) 0#64) ∧
  (∀ s : State, 2 ^ 32 ≤ s.opA.toNat ∨ 2 ^ 48 ≤ s.opB.toNat → Claims.EndsInFault .frnd s .width) ∧
  (∀ s : State, ∀ abq ∈ [(0#64, 0#64, 0xD8D8DBBC#64), (0xFFFFFFFF#64, 0#64, 0x38DBF9CB#64),
      (0#64, 0xFFFFFFFFFFFF#64, 0x38DBF9CB#64), (1#64, 0#64, 0xD05AD19C#64), (0x80000000#64, 0#64, 0xD0585B9E#64),
      (0xF0AAF0AA#64, 0x1B02EFFC7072#64, 0x234AA9BB#64)],
    s.opA = abq.1 → s.opB = abq.2.1 → Claims.Completes .frnd s abq.2.2 0#64) ∧
  permuteBits 48 Rom.e 0xF0AAF0AA#32 = 0x7A15557A1555#48 ∧
  0x7A15557A1555#48 ^^^ 0x1B02EFFC7072#48 = 0x6117BA866527#48 ∧
  (List.range 8).map (chunk 0x6117BA866527#48) =
    [0b011000#6, 0b010001#6, 0b011110#6, 0b111010#6, 0b100001#6, 0b100110#6, 0b010100#6, 0b100111#6] ∧
  (List.range 8).map (fun j => substituteBits (chunk 0x6117BA866527#48 j) j) = [5#4, 12#4, 8#4, 2#4, 11#4, 5#4, 9#4, 7#4] ∧
  permuteBits 32 Rom.p 0x5C82B597#32 = 0x234AA9BB#32

/-- Rules R172 and R173 inside rule R170: the round function stage by stage, each stage in the spec's numbers. -/
def Obligations.RoundFunctionStages : Prop :=
  (∀ y : Subkey, ∀ j < 8, (chunk y j).toNat = y.toNat / 2 ^ (42 - 6 * j) % 64 ∧
    ∀ b < 6, (chunk y j).getLsbD b = y.getLsbD (42 - 6 * j + b)) ∧
  (∀ s : Nat → Nibble,
    (concat4 s).toNat = ((List.range 8).map fun j => (s j).toNat * 2 ^ (28 - 4 * j)).sum) ∧
  (∀ r : Half, ∀ k : Subkey, ∃ x y : Subkey, ∃ z : Half,
    (∀ i < 48, x.getLsbD (47 - i) = r.getLsbD (32 - Rom.promRead Rom.e i)) ∧ y = x ^^^ k ∧
    (∀ j < 8, z.toNat / 2 ^ (28 - 4 * j) % 16 =
      (Rom.sbox j).getD (32 * (y.toNat / 2 ^ (47 - 6 * j) % 2) + 16 * (y.toNat / 2 ^ (42 - 6 * j) % 2) +
        y.toNat / 2 ^ (43 - 6 * j) % 16) 0) ∧
    ∀ i < 32, (roundFunctionBits r k).getLsbD (31 - i) = z.getLsbD (32 - Rom.promRead Rom.p i))

/-- The spec's inference R174: `f` depends on its operands through `permute(r, 32, E) xor k` only, is not injective in `r`,
and does not map (0, 0) to 0. -/
def Obligations.RoundFunctionMixesOnly : Prop :=
  (∀ r r' : Half, ∀ k k' : Subkey, permuteBits 48 Rom.e r ^^^ k = permuteBits 48 Rom.e r' ^^^ k' →
    roundFunctionBits r k = roundFunctionBits r' k') ∧
  (∃ r r' : Half, r ≠ r' ∧ roundFunctionBits r 0#48 = roundFunctionBits r' 0#48) ∧
  roundFunctionBits 0#32 0#48 = 0xD8D8DBBC#32 ∧
  roundFunctionBits 0xFFFFFFFF#32 0#48 = 0x38DBF9CB#32 ∧ roundFunctionBits 0#32 0xFFFFFFFFFFFF#48 = 0x38DBF9CB#32

/-- Program P4 for all operands: the round function rebuilt from the primitives on port values equals FRND's function. -/
def Obligations.FrndFromPrimitives : Prop :=
  ∀ r k : Word64, r.toNat < 2 ^ 32 → k.toNat < 2 ^ 48 →
    (do
      let x ← permute r 32 Rom.e
      let (yh, yl) ← split (x ^^^ k) 24
      let (c01, c23) ← split yh 12
      let (c45, c67) ← split yl 12
      let (c0, c1) ← split c01 6
      let (c2, c3) ← split c23 6
      let (c4, c5) ← split c45 6
      let (c6, c7) ← split c67 6
      let s0 ← substitute c0 0
      let s1 ← substitute c1 1
      let s2 ← substitute c2 2
      let s3 ← substitute c3 3
      let s4 ← substitute c4 4
      let s5 ← substitute c5 5
      let s6 ← substitute c6 6
      let s7 ← substitute c7 7
      let z01 ← merge s0 s1 4
      let z23 ← merge s2 s3 4
      let z45 ← merge s4 s5 4
      let z67 ← merge s6 s7 4
      let z03 ← merge z01 z23 8
      let z47 ← merge z45 z67 8
      let z ← merge z03 z47 16
      permute z 32 Rom.p) = roundFunction r k

/-! ## The cipher engine, ENC and DEC -/

/-- Rule R186: `ENC`, its fault, what it gives back of a result of DEC, a block that is its own result, and the example. -/
def Obligations.EncCommand : Prop :=
  Claims.HasWord .enc 0x8000#16 ∧
  (∀ s : State, s.kv = true → exec .enc s = .next
    { s with
      l := 0#32
      r := 0#32
      rc := 0
      dir := false
      ph := .idle
      rsp := some { err := .ok, q0 := crypt s.schedule s.opA false, q1 := 0#64 } }) ∧
  (∀ s : State, s.kv = false → Claims.EndsInFault .enc s .nokey) ∧
  (∀ key b : Word64, crypt (keysched key) (crypt (keysched key) b true) false = b) ∧
  (crypt (keysched 0#64) 0xAC3C22BAF7113361#64 false = 0xAC3C22BAF7113361#64) ∧
  crypt (keysched 0xFFFFFFFFFFFFFB2D#64) 0x00007048860F3A38#64 false = 0x839C9DC42B18D3B4#64

/-- Rule R187: `DEC`, as rule R186. -/
def Obligations.DecCommand : Prop :=
  Claims.HasWord .dec 0x9000#16 ∧
  (∀ s : State, s.kv = true → exec .dec s = .next
    { s with
      l := 0#32
      r := 0#32
      rc := 0
      dir := false
      ph := .idle
      rsp := some { err := .ok, q0 := crypt s.schedule s.opA true, q1 := 0#64 } }) ∧
  (∀ s : State, s.kv = false → Claims.EndsInFault .dec s .nokey) ∧
  (∀ key b : Word64, crypt (keysched key) (crypt (keysched key) b false) true = b) ∧
  (crypt (keysched 0#64) 0xAC3C22BAF7113361#64 true = 0xAC3C22BAF7113361#64) ∧
  crypt (keysched 0xFFFFFFFFFFFFFB2D#64) 0x839C9DC42B18D3B4#64 true = 0x00007048860F3A38#64 ∧
  crypt (keysched 0xFFFFFFFFFFFFFB2D#64) 0x00007048860F3A38#64 true = 0xC740F1E740B473C0#64

/-- Rules R185 and R192: the engine as the sequence of pairs (L_j, R_j), with the subkey order of rule R191, and the final
swap before the final permutation. -/
def Obligations.CryptRoundSequence : Prop :=
  ∀ ks : Schedule, ∀ b : Word64, ∀ dir : Bool, ∃ l r : Nat → Half,
    (∀ k < 64, (l 0 ++ r 0).getLsbD (63 - k) = b.getLsbD (64 - Rom.promRead Rom.ip k)) ∧
    (∀ j : Fin 16, l (j.val + 1) = r j.val ∧
      r (j.val + 1) = l j.val ^^^ roundFunctionBits (r j.val) (if dir then ks[15 - j.val] else ks[j.val])) ∧
    ∀ k < 64, (crypt ks b dir).getLsbD (63 - k) = (r 16 ++ l 16).getLsbD (64 - Rom.promRead Rom.fp k)

/-- The guarantee of rule R193 for every schedule (the spec's inference), and as commands: with `KV` = 1 and no NEW in
between, ENC then DEC, and DEC then ENC, give the block back. -/
def Obligations.EncryptDecryptRoundTrip : Prop :=
  (∀ ks : Schedule, ∀ b : Word64, crypt ks (crypt ks b false) true = b ∧ crypt ks (crypt ks b true) false = b) ∧
  (∀ s : State, s.ph = .idle → s.kv = true → ∀ b u v : Word64, ∃ t c,
    transact ⟨0x8000#16, b, u⟩ s = .next t ∧ t.rsp = some { err := .ok, q0 := c, q1 := 0#64 } ∧
    ∃ t', transact ⟨0x9000#16, c, v⟩ t = .next t' ∧ t'.rsp = some { err := .ok, q0 := b, q1 := 0#64 }) ∧
  (∀ s : State, s.ph = .idle → s.kv = true → ∀ b u v : Word64, ∃ t c,
    transact ⟨0x9000#16, b, u⟩ s = .next t ∧ t.rsp = some { err := .ok, q0 := c, q1 := 0#64 } ∧
    ∃ t', transact ⟨0x8000#16, c, v⟩ t = .next t' ∧ t'.rsp = some { err := .ok, q0 := b, q1 := 0#64 })

/-- The spec's inference R194: decryption is encryption with the schedule reversed. -/
def Obligations.DirectionSymmetry : Prop :=
  ∀ ks : Schedule, ∀ b : Word64, crypt ks b true = crypt (Vector.ofFn fun j : Fin 16 => ks[15 - j.val]) b false

/-- The spec's inference R196 (b): complementing the key and the block complements the result. -/
def Obligations.Complementation : Prop :=
  ∀ key b : Word64, crypt (keysched (~~~key)) (~~~b) false = ~~~(crypt (keysched key) b false) ∧
    crypt (keysched (~~~key)) (~~~b) true = ~~~(crypt (keysched key) b true)

/-- With sixteen equal subkeys ENC and DEC are one function and ENC twice is the identity; the four weak keys of
93_implementation_defined.md G5 have such a schedule. -/
def Obligations.EqualSubkeysSelfInverse : Prop :=
  (∀ k : Subkey, ∀ b : Word64,
    crypt (Vector.replicate 16 k) b true = crypt (Vector.replicate 16 k) b false ∧
    crypt (Vector.replicate 16 k) (crypt (Vector.replicate 16 k) b false) false = b) ∧
  keysched 0x0101010101010101#64 = Vector.replicate 16 0#48 ∧
  keysched 0xFEFEFEFEFEFEFEFE#64 = Vector.replicate 16 0xFFFFFFFFFFFF#48 ∧
  keysched 0xE0E0E0E0F1F1F1F1#64 = Vector.replicate 16 0xFFFFFF000000#48 ∧
  keysched 0x1F1F1F1F0E0E0E0E#64 = Vector.replicate 16 0x000000FFFFFF#48

/-! ## Encoding -/

/-- Every well-formed instruction is decoded from its own word (rules R93, R98). -/
def Obligations.DecodeEncode : Prop := ∀ i : Instr, i.WellFormed → decode (encode i) = .ok i

/-- Every word that decodes is the word of the instruction it decodes to, which is well-formed. -/
def Obligations.EncodeDecode : Prop :=
  ∀ cw : CmdWord, ∀ i : Instr, decode cw = .ok i → i.WellFormed ∧ encode i = cw

/-- The 84 legal words in the order of rule R93. -/
def Claims.legalWords : List Nat :=
  (List.range 6).map (0x1000 + ·) ++ (List.range 32).map (0x2001 + ·) ++ (List.range 32).map (0x3001 + ·) ++
    (List.range 8).map (0x4000 + ·) ++ [0x5001, 0x5002, 0x6000, 0x7000, 0x8000, 0x9000]

/-- The legal values of `SEL` for an `OP` (rule R93). -/
def Claims.legalSelector (op sel : Nat) : Prop :=
  (op = 1 ∧ sel ≤ 5) ∨ ((op = 2 ∨ op = 3) ∧ 1 ≤ sel ∧ sel ≤ 32) ∨ (op = 4 ∧ sel ≤ 7) ∨
    (op = 5 ∧ (sel = 1 ∨ sel = 2)) ∨ ((op = 6 ∨ op = 7 ∨ op = 8 ∨ op = 9) ∧ sel = 0)

/-- Rules R93 and R96: the command words of the 22 instructions; which words are illegal; exactly 84 are legal; an illegal
word is ILLCMD before any operand is looked at. -/
def Obligations.LegalAndIllegalWords : Prop :=
  (∀ ic ∈ [(Instr.permIp, 0x1000#16), (.permFp, 0x1001#16), (.permPc1, 0x1002#16), (.permPc2, 0x1003#16),
      (.permE, 0x1004#16), (.permP, 0x1005#16), (.substS1, 0x4000#16), (.substS2, 0x4001#16), (.substS3, 0x4002#16),
      (.substS4, 0x4003#16), (.substS5, 0x4004#16), (.substS6, 0x4005#16), (.substS7, 0x4006#16), (.substS8, 0x4007#16),
      (.rotl1, 0x5001#16), (.rotl2, 0x5002#16), (.new, 0x6000#16), (.frnd, 0x7000#16), (.enc, 0x8000#16),
      (.dec, 0x9000#16)], Claims.HasWord ic.1 ic.2) ∧
  (∀ hw : BitVec 6, legalHalfWidth hw → Claims.HasWord (.split hw) (0x2000#16 + hw.setWidth 16) ∧
    Claims.HasWord (.merge hw) (0x3000#16 + hw.setWidth 16)) ∧
  (∀ cw : CmdWord, (∃ i, decode cw = .ok i) ↔ cw.toNat ∈ Claims.legalWords) ∧
  Claims.legalWords.length = 84 ∧ Claims.legalWords.Nodup ∧
  (∀ cw : CmdWord, (∃ i, decode cw = .ok i) ↔
    cw.toNat / 64 % 64 = 0 ∧ Claims.legalSelector (cw.toNat / 4096) (cw.toNat % 64)) ∧
  (∀ (s : State) (a b : Word64) (rest : List PortIn) (cw : CmdWord), cw.toNat ∉ Claims.legalWords → Claims.Presented s ⟨cw, a, b⟩ rest →
    step s = .next { Claims.faulted s .illcmd with inputs := rest })

/-- A few words of each family read as the tables of 95_test_vectors.md section 2.9 read them. -/
def Obligations.SanityWords : Prop :=
  decode 0x1000#16 = .ok .permIp ∧ decode 0x1005#16 = .ok .permP ∧ decode 0x201C#16 = .ok (.split 28#6) ∧
  decode 0x3020#16 = .ok (.merge 32#6) ∧ decode 0x4007#16 = .ok .substS8 ∧ decode 0x5002#16 = .ok .rotl2 ∧
  decode 0x6000#16 = .ok .new ∧ decode 0x7000#16 = .ok .frnd ∧ decode 0x8000#16 = .ok .enc ∧
  decode 0x9000#16 = .ok .dec

/-! ## Faults -/

/-- The table of rule R211. -/
def Claims.widthCondition (a b : Nat) : Instr → Prop
  | .permIp | .permFp | .permPc1 => False
  | .permPc2 => 2 ^ 56 ≤ a
  | .permE | .permP => 2 ^ 32 ≤ a
  | .split hw => 2 ^ (2 * hw.toNat) ≤ a
  | .merge hw => 2 ^ hw.toNat ≤ a ∨ 2 ^ hw.toNat ≤ b
  | .substS1 | .substS2 | .substS3 | .substS4 | .substS5 | .substS6 | .substS7 | .substS8 => 64 ≤ a
  | .rotl1 | .rotl2 => 2 ^ 28 ≤ a
  | .frnd => 2 ^ 32 ≤ a ∨ 2 ^ 48 ≤ b
  | .new | .enc | .dec => False

/-- Rule R211: a command ends in WIDTH exactly on the conditions of the table, and the fault records nothing. -/
def Obligations.WidthConditions : Prop :=
  ∀ i : Instr, i.WellFormed → ∀ s : State,
    (Claims.EndsInFault i s .width ↔ Claims.widthCondition s.opA.toNat s.opB.toNat i) ∧
    ∀ (t : State) (rsp : Response), exec i s = .next t → t.rsp = some rsp → rsp.err = .fault .width → t = Claims.faulted s .width

/-- Rule R212: a bad table is the fault TABLE of the generic `permute`, before the width check; the six tables are good,
and no instruction and no step ends in TABLE. -/
def Obligations.TableFaultNeverRaised : Prop :=
  (∀ (v : Word64) (w : Nat) (table : List Nat), (∃ p ∈ table, p < 1 ∨ w < p) → permute v w table = .error .table) ∧
  (∀ (i : Instr) (s t : State) (rsp : Response), exec i s = .next t → t.rsp = some rsp → rsp.err ≠ .fault .table) ∧
  (∀ (s t : State) (rsp : Response), step s = .next t → t.rsp = some rsp → rsp.err ≠ .fault .table) ∧
  Rom.ip.length = 64 ∧ Rom.fp.length = 64 ∧ Rom.pc1.length = 56 ∧ Rom.pc2.length = 48 ∧ Rom.e.length = 48 ∧
  Rom.p.length = 32

/-- Rule R213: ILLCMD exactly for an illegal word, whatever the operands, and recording nothing. -/
def Obligations.IllegalCommandFault : Prop :=
  ∀ (s : State) (cmd : Command) (rest : List PortIn), Claims.Presented s cmd rest →
    ((∀ i : Instr, decode cmd.cw ≠ .ok i) → step s = .next { Claims.faulted s .illcmd with inputs := rest }) ∧
    (∀ i : Instr, decode cmd.cw = .ok i → ∀ (t : State) (rsp : Response), step s = .next t → t.rsp = some rsp → rsp.err ≠ .fault .illcmd)

/-- Rule R215: NOKEY exactly for ENC and DEC with `KV` = 0, whatever the block. -/
def Obligations.NoKeyFault : Prop :=
  ∀ (i : Instr) (s : State),
    (Claims.EndsInFault i s .nokey ↔ (i = .enc ∨ i = .dec) ∧ s.kv = false) ∧
    ∀ (t : State) (rsp : Response), exec i s = .next t → t.rsp = some rsp → rsp.err = .fault .nokey → (i = .enc ∨ i = .dec) ∧ s.kv = false

/-- Rule R214: a command that ends in a fault has written nothing but its response and the bit of `FLT`; the FCE stays in
`IDLE` and the next command is accepted. -/
def Obligations.FaultEntry : Prop :=
  ∀ (s : State) (cmd : Command) (rest : List PortIn) (t : State) (e : Cause) (q0 q1 : Word64), Claims.Presented s cmd rest → step s = .next t → t.rsp = some { err := .fault e, q0 := q0, q1 := q1 } →
    t = { Claims.faulted s e with inputs := rest } ∧ t.ph = .idle ∧ (rest.head? ≠ some .reset → t.cmdReady = true) ∧
    ∀ n < 4, t.flt.getLsbD n = (s.flt.getLsbD n || decide (n + 1 = (errCode (.fault e)).toNat))

/-- Rule R217: ILLCMD before everything else, then NOKEY, then TABLE before WIDTH; two wide operands are one WIDTH. -/
def Obligations.FaultPriority : Prop :=
  (∀ (s : State) (cmd : Command) (rest : List PortIn), Claims.Presented s cmd rest → (∀ i : Instr, decode cmd.cw ≠ .ok i) →
    step s = .next { Claims.faulted s .illcmd with inputs := rest }) ∧
  (∀ (s : State) (cmd : Command) (rest : List PortIn), Claims.Presented s cmd rest → decode cmd.cw = .ok .enc ∨ decode cmd.cw = .ok .dec → s.kv = false →
    step s = .next { Claims.faulted s .nokey with inputs := rest }) ∧
  (∀ (v : Word64) (w : Nat) (table : List Nat), (∃ p ∈ table, p < 1 ∨ w < p) → 2 ^ w ≤ v.toNat →
    permute v w table = .error .table) ∧
  (∀ s : State, ∀ hw : BitVec 6, legalHalfWidth hw → 2 ^ hw.toNat ≤ s.opA.toNat → 2 ^ hw.toNat ≤ s.opB.toNat →
    Claims.EndsInFault (.merge hw) s .width) ∧
  (∀ s : State, 2 ^ 32 ≤ s.opA.toNat → 2 ^ 48 ≤ s.opB.toNat → Claims.EndsInFault .frnd s .width)

/-- Rule R220: after a fault the same command faults again with the same code; any other command answers as it would have
without the fault; no command clears a bit of `FLT`; reset does. -/
def Obligations.FaultsRepeatAndStick : Prop :=
  (∀ (s t : State) (cmd : Command) (e : Cause) (q0 q1 : Word64), s.ph = .idle → transact cmd s = .next t → t.rsp = some { err := .fault e, q0 := q0, q1 := q1 } →
    (∃ u, transact cmd t = .next u ∧ u.rsp = t.rsp) ∧
    ∀ cmd' : Command, ∃ u v, transact cmd' t = .next u ∧ transact cmd' s = .next v ∧ u.rsp = v.rsp ∧ u.ks = v.ks ∧ u.kv = v.kv) ∧
  (∀ s t : State, s.now ≠ .reset → step s = .next t → ∀ n < 4, s.flt.getLsbD n = true → t.flt.getLsbD n = true) ∧
  (∀ s : State, s.now = .reset → ∃ t, step s = .next t ∧ t.flt = 0#4)

/-- Rule R216: the codes and the bits. -/
def Obligations.FaultCodes : Prop :=
  errCode .ok = 0#3 ∧ errCode (.fault .width) = 1#3 ∧ errCode (.fault .table) = 2#3 ∧ errCode (.fault .illcmd) = 3#3 ∧
  errCode (.fault .nokey) = 4#3 ∧
  (∀ e e' : Err, errCode e = errCode e' → e = e') ∧
  (∀ e : Err, (errCode e).toNat ≤ 4) ∧
  (∀ c : Cause, causeBit c + 1 = (errCode (.fault c)).toNat) ∧
  (∀ s : State, ∀ c : Cause, s.stat.getLsbD (causeBit c + 2) = s.flt.getLsbD (causeBit c))

/-! ## State, reset, the port and the sequences -/

/-- Rule R32: the value of every piece of state after reset. -/
def Obligations.ResetState : Prop :=
  State.reset.l = 0#32 ∧ State.reset.r = 0#32 ∧ State.reset.c = 0#28 ∧ State.reset.d = 0#28 ∧ State.reset.dir = false ∧
  State.reset.ph = .idle ∧ State.reset.rc = 0 ∧ State.reset.kv = false ∧ State.reset.flt = 0#4 ∧
  (∀ i : Fin 16, State.reset.ks[i] = none) ∧ State.reset.stat = 0b000000#6

/-- Rule R252: `rst` in the middle of a command, and at any other time: the command in progress is abandoned, no response is
given, the registers are cleared, and while it is asserted no command is accepted. -/
def Obligations.ResetAbandonsCommand : Prop :=
  ∀ (s : State) (rest : List PortIn), s.inputs = .reset :: rest →
    s.cmdReady = false ∧ step s = .next { State.reset with inputs := rest } ∧
    ∀ u, tick u s = .next { State.reset with inputs := rest }

/-- Rule R30: the six bits of `STAT`. -/
def Obligations.StatView : Prop :=
  ∀ s : State, s.stat.getLsbD 0 = decide (s.ph ≠ .idle) ∧ s.stat.getLsbD 1 = s.kv ∧ s.stat.getLsbD 2 = s.flt.getLsbD 0 ∧
    s.stat.getLsbD 3 = s.flt.getLsbD 1 ∧ s.stat.getLsbD 4 = s.flt.getLsbD 2 ∧ s.stat.getLsbD 5 = s.flt.getLsbD 3

/-- The invariant holds after reset. -/
def Obligations.InvariantAtReset : Prop := State.reset.Inv

/-- The invariant of the FCE (the idle invariant R31, the key-store invariant R33, the key-schedule state of R26 and the
round state of the cipher engine, and `FLT.T` = 0) is kept by every step, from every state that meets it. That in `KEYGEN`
the entries of the key store not yet written hold no value is no rule of the spec but log entry 5 (DEDUCED). -/
def Obligations.InvariantKeptByStep : Prop := ∀ s t : State, s.Inv → step s = .next t → t.Inv

/-- The same invariant is kept by every clock cycle, whatever `UNROLL` is: in `KEYGEN` the carry state is `CD_RC`, the
entries below `RC` are the subkeys and the others hold no value, in `CRYPT` the halves are those of round `RC`. So step K0 of
an accepted NEW leaves no key-store entry with a value, which rule R152 does not say: it is log entry 5 (DEDUCED). -/
def Obligations.InvariantKeptByTick : Prop := ∀ (u : Config.Unroll) (s t : State), s.Inv → tick u s = .next t → t.Inv

/-- A step in `IDLE` runs the decoded instruction, and the port moves on. -/
def Obligations.StepRunsDecodedInstruction : Prop :=
  ∀ (s : State) (cmd : Command) (rest : List PortIn) (i : Instr), Claims.Presented s cmd rest → decode cmd.cw = .ok i →
    i.WellFormed ∧ s.opA = cmd.a ∧ s.opB = cmd.b ∧
    ∃ t, exec i s = .next t ∧ t.inputs = .command cmd :: rest ∧ step s = .next { t with inputs := rest }

/-- Rules R100 and R224 where no command is accepted: in `IDLE` with nothing presented all state is kept; while a command is
in progress a presented command waits. -/
def Obligations.WaitingChangesNothing : Prop :=
  (∀ s : State, s.ph = .idle → s.now = .quiet →
    step s = .next { s with inputs := s.inputs.tail, rsp := none } ∧
    ∀ u, tick u s = .next { s with inputs := s.inputs.tail, rsp := none }) ∧
  (∀ s : State, s.ph ≠ .idle → ∀ (cmd : Command) (rest : List PortIn), s.inputs = .command cmd :: rest →
    s.cmdReady = false ∧ (∃ t, step s = .next t ∧ t.inputs = s.inputs) ∧ ∀ u, ∃ t, tick u s = .next t ∧ t.inputs = s.inputs)

/-- The FCE cannot be stuck: from every state a step and a clock cycle answer a next state. -/
def Obligations.NothingStopsTheMachine : Prop :=
  ∀ s : State, (∃ t, step s = .next t) ∧ ∀ u, ∃ t, tick u s = .next t

/-- Every command in progress ends, with exactly one response, given in its last cycle, whatever `UNROLL` is and whatever
the host drives but `rst`: that it ends is the spec's inference R258. In how many cycles, here at most 17, is the model's
choice, log entry 10 (DESIGN CHOICE): rule R258 counts rounds and rule R259 fixes no cycle count. Before the last cycle `RC`
advances by `UNROLL` a cycle, up to 16, in the phase the command is in. -/
def Obligations.CommandInProgressEnds : Prop :=
  ∀ (u : Config.Unroll) (s : State), s.ph ≠ .idle →
    (1 ≤ Claims.cyclesLeft u s.rc.val ∧ Claims.cyclesLeft u s.rc.val ≤ 17) ∧
    (Claims.NoResetFor (Claims.cyclesLeft u s.rc.val) s.inputs →
      ∃ t, ticks u (Claims.cyclesLeft u s.rc.val) s = .next t ∧ t.ph = .idle ∧ t.rsp ≠ none ∧
        t.inputs = heldInputs^[Claims.cyclesLeft u s.rc.val] s.inputs) ∧
    ∀ m < Claims.cyclesLeft u s.rc.val, Claims.NoResetFor m s.inputs →
      ∃ t, ticks u m s = .next t ∧ t.ph = s.ph ∧ t.rc.val = min 16 (s.rc.val + m * u.rounds) ∧
        t.inputs = heldInputs^[m] s.inputs ∧ (m ≠ 0 → t.rsp = none)

/-- Rules R152, R153, R154: the steps of the key-schedule state machine. The key store after step K0 is left open here (what
the model does is log entry 5). -/
def Obligations.KeygenSteps : Prop :=
  (∀ (u : Config.Unroll) (s : State) (cmd : Command) (rest : List PortIn), Claims.Presented s cmd rest → decode cmd.cw = .ok .new →
    ∃ t, tick u s = .next t ∧
      t = { s with kv := false, c := t.c, d := t.d, rc := 0, ph := .keygen, ks := t.ks, inputs := rest, rsp := none } ∧
      mergeBits t.c t.d = permuteBits 56 Rom.pc1 cmd.a) ∧
  (∀ s : State, s.ph = .keygen → s.now ≠ .reset → ∀ i : Fin 16, s.rc.val = i.val →
    ∃ t, step s = .next t ∧
      t = { s with c := s.c.rotateLeft (Rom.rot i.val), d := s.d.rotateLeft (Rom.rot i.val), ks := t.ks, rc := i.succ, inputs := heldInputs s.inputs, rsp := none } ∧
      t.ks[i] = some (permuteBits 48 Rom.pc2 (mergeBits t.c t.d)) ∧
      ∀ j : Fin 16, j ≠ i → t.ks[j] = s.ks[j]) ∧
  (∀ s : State, s.ph = .keygen → s.now ≠ .reset → s.rc.val = 16 →
    step s = .next { s with c := 0#28, d := 0#28, rc := 0, kv := true, ph := .idle, inputs := heldInputs s.inputs, rsp := some { err := .ok, q0 := 0#64, q1 := 0#64 } })

/-- Rules R188, R189, R190: the steps of the round unroller. C(j) and Cend run in every cycle without `rst`, whatever the host
drives. -/
def Obligations.CryptSteps : Prop :=
  (∀ (u : Config.Unroll) (s : State) (cmd : Command) (rest : List PortIn), Claims.Presented s cmd rest → s.kv = true → decode cmd.cw = .ok .enc ∨ decode cmd.cw = .ok .dec →
    ∃ t, tick u s = .next t ∧
      t = { s with l := t.l, r := t.r, dir := decide (decode cmd.cw = .ok .dec), rc := 0, ph := .crypt, inputs := rest, rsp := none } ∧
      t.l ++ t.r = permuteBits 64 Rom.ip cmd.a) ∧
  (∀ s : State, s.ph = .crypt → s.now ≠ .reset → ∀ j : Fin 16, s.rc.val = j.val → ∀ k : Subkey,
    (if s.dir then s.ks[15 - j.val] else s.ks[j.val]) = some k →
    step s = .next { s with l := s.r, r := s.l ^^^ roundFunctionBits s.r k, rc := j.succ, inputs := heldInputs s.inputs, rsp := none }) ∧
  (∀ s : State, s.ph = .crypt → s.now ≠ .reset → s.rc.val = 16 →
    step s = .next { s with l := 0#32, r := 0#32, rc := 0, dir := false, ph := .idle, inputs := heldInputs s.inputs, rsp := some { err := .ok, q0 := permuteBits 64 Rom.fp (s.r ++ s.l), q1 := 0#64 } })

/-- The steps K0, K(0) to K(15), Kend compose to the atomic rule R150: with no `rst` meanwhile, `2 + 16 / UNROLL` clock
cycles give the state that one step gives, in every field but what is left on the port. The cycle count is the model's
choice, log entry 10 (DESIGN CHOICE); rule R259 fixes none. -/
def Obligations.NewTicksRefineStep : Prop :=
  ∀ (u : Config.Unroll) (s : State) (cmd : Command) (rest : List PortIn), Claims.Presented s cmd rest →
    Claims.NoResetFor (1 + 16 / u.rounds) rest → decode cmd.cw = .ok .new →
    ∃ t, step s = .next t ∧ ticks u (2 + 16 / u.rounds) s = .next { t with inputs := heldInputs^[1 + 16 / u.rounds] rest }

/-- The steps C0, C(0) to C(15), Cend compose to the atomic rules R186 and R187, in the same way; the primitive commands, FRND
and illegal words, and ENC and DEC without a key, take one clock cycle. The cycle counts are the model's choice, log entry 10
(DESIGN CHOICE); rule R259 fixes none. -/
def Obligations.CryptTicksRefineStep : Prop :=
  (∀ (u : Config.Unroll) (s : State) (cmd : Command) (rest : List PortIn), Claims.Presented s cmd rest →
    Claims.NoResetFor (1 + 16 / u.rounds) rest → s.kv = true → decode cmd.cw = .ok .enc ∨ decode cmd.cw = .ok .dec →
    ∃ t, step s = .next t ∧ ticks u (2 + 16 / u.rounds) s = .next { t with inputs := heldInputs^[1 + 16 / u.rounds] rest }) ∧
  (∀ (u : Config.Unroll) (s : State) (cmd : Command) (rest : List PortIn), Claims.Presented s cmd rest → decode cmd.cw ≠ .ok .new →
    s.kv = false ∨ (decode cmd.cw ≠ .ok .enc ∧ decode cmd.cw ≠ .ok .dec) → ticks u 1 s = step s)

/-! ## Whole-machine rules -/

/-- The primitive commands and FRND write no register but a bit of `FLT` on a fault (the common part of 40_primitives.md and
rule R171); they never leave `IDLE`. -/
def Obligations.PrimitivesWriteNoRegister : Prop :=
  ∀ (i : Instr) (s t : State), i ≠ .new → i ≠ .enc → i ≠ .dec → exec i s = .next t →
    t = { s with rsp := t.rsp, flt := t.flt } ∧
    ∀ rsp, t.rsp = some rsp → (rsp.err = .ok → t.flt = s.flt) ∧ ∀ e, rsp.err = .fault e → t = Claims.faulted s e

/-- Only NEW and reset write the key store and the key-valid flag: no other instruction; and no step and no clock cycle
without `rst`, be it of another command, an illegal word, a command in progress or a wait, unless NEW is accepted in it or is
in progress (phase `KEYGEN`). -/
def Obligations.OnlyNewWritesKeyStore : Prop :=
  (∀ (i : Instr) (s t : State), i ≠ .new → exec i s = .next t → t.ks = s.ks ∧ t.kv = s.kv) ∧
  (∀ (u : Config.Unroll) (s t : State), s.now ≠ .reset → step s = .next t ∨ tick u s = .next t →
    t.ks ≠ s.ks ∨ t.kv ≠ s.kv →
    s.ph = .keygen ∨ ∃ cmd rest, Claims.Presented s cmd rest ∧ decode cmd.cw = .ok .new)

/-- Rule R10: the response is a function of the command, its operands and, for ENC and DEC, of the key store with its flag,
and of nothing else: two states that differ in everything else give one response. -/
def Obligations.ResponseIsFunctionOfCommandAndKey : Prop :=
  ∀ (s s' : State) (cmd : Command) (rest rest' : List PortIn), Claims.Presented s cmd rest → Claims.Presented s' cmd rest' →
    (decode cmd.cw = .ok .enc ∨ decode cmd.cw = .ok .dec → s.kv = s'.kv ∧ s.ks = s'.ks) →
    ∃ t t', step s = .next t ∧ step s' = .next t' ∧ t.rsp = t'.rsp ∧ t.rsp ≠ none

/-- The operand `B` is read by MERGE and FRND only, and an illegal word reads neither operand: another value on the port
changes nothing of the step. -/
def Obligations.UnreadOperands : Prop :=
  (∀ (s : State) (cw : CmdWord) (a b b' : Word64) (rest : List PortIn), s.ph = .idle → (∀ hw : BitVec 6, decode cw ≠ .ok (.merge hw)) → decode cw ≠ .ok .frnd →
    step { s with inputs := .command ⟨cw, a, b⟩ :: rest } = step { s with inputs := .command ⟨cw, a, b'⟩ :: rest }) ∧
  (∀ (s : State) (cw : CmdWord) (a a' b b' : Word64) (rest : List PortIn), s.ph = .idle → (∀ i : Instr, decode cw ≠ .ok i) →
    step { s with inputs := .command ⟨cw, a, b⟩ :: rest } = step { s with inputs := .command ⟨cw, a', b'⟩ :: rest })

/-- The width in bits of an instruction's results (rule R92 and opcode_table.json). -/
def Claims.resultWidth : Instr → Nat
  | .permIp | .permFp => 64
  | .permPc1 => 56
  | .permPc2 | .permE => 48
  | .permP | .frnd => 32
  | .split hw => hw.toNat
  | .merge hw => 2 * hw.toNat
  | .substS1 | .substS2 | .substS3 | .substS4 | .substS5 | .substS6 | .substS7 | .substS8 => 4
  | .rotl1 | .rotl2 => 28
  | .new => 0
  | .enc | .dec => 64

/-- The shape of every response: a code of 0 to 4; on a fault both results 0; else each result fits its width, and `Q1` is 0
but for SPLIT. -/
def Obligations.ResponseShape : Prop :=
  ∀ (i : Instr) (s t : State), i.WellFormed → exec i s = .next t → ∃ rsp, t.rsp = some rsp ∧
    (errCode rsp.err).toNat ≤ 4 ∧
    (rsp.err ≠ .ok → rsp.q0 = 0#64 ∧ rsp.q1 = 0#64) ∧
    rsp.q0.toNat < 2 ^ Claims.resultWidth i ∧ rsp.q1.toNat < 2 ^ Claims.resultWidth i ∧
    ((∀ hw, i ≠ .split hw) → rsp.q1 = 0#64)

/-- Two ENC or DEC commands commute: in either order each gets the same response, and the last states differ in the response
signals only (the spec's inference in rule R81). -/
def Obligations.EncDecCommute : Prop :=
  ∀ (s : State) (c1 c2 : Command), s.ph = .idle → decode c1.cw = .ok .enc ∨ decode c1.cw = .ok .dec →
    decode c2.cw = .ok .enc ∨ decode c2.cw = .ok .dec →
    ∃ t u t' u', transact c1 s = .next t ∧ transact c2 t = .next u ∧ transact c2 s = .next t' ∧ transact c1 t' = .next u' ∧
      t.rsp = u'.rsp ∧ u.rsp = t'.rsp ∧ u' = { u with rsp := u'.rsp }

/-! ## The ROMs -/

/-- Rule R61: IP and FP are inverse position by position, and its consequence on values, which the spec derives. -/
def Obligations.IpAndFpAreInverse : Prop :=
  (∀ i, 1 ≤ i → i ≤ 64 → Rom.promRead Rom.fp (Rom.promRead Rom.ip (i - 1) - 1) = i) ∧
  (∀ i, 1 ≤ i → i ≤ 64 → Rom.promRead Rom.ip (Rom.promRead Rom.fp (i - 1) - 1) = i) ∧
  (∀ v : Word64, permuteBits 64 Rom.fp (permuteBits 64 Rom.ip v) = v ∧
    permuteBits 64 Rom.ip (permuteBits 64 Rom.fp v) = v)

/-- Rules R64 and R73: the shapes of the S-boxes and the rotation schedule. -/
def Obligations.SboxAndRotationShapes : Prop :=
  (∀ j < 8, (Rom.sbox j).length = 64 ∧ (∀ x ∈ Rom.sbox j, x < 16) ∧
    ∀ row < 4, ∀ v < 16, v ∈ ((Rom.sbox j).drop (16 * row)).take 16) ∧
  (∀ i < 16, Rom.rot i = if i = 0 ∨ i = 1 ∨ i = 8 ∨ i = 15 then 1 else 2) ∧
  Rom.rotList.length = 16
end

