-- ==== Sys2Proof/Laws/Decode.lean ====
section
/-! SUPPORT. The fields of a command word (30_encoding.md rule R91). -/

namespace Sys2Proof

/-- A bit of a command word is a bit of the field it stands in. -/
theorem wordOf_getLsbD (op : BitVec 4) (sel : BitVec 6) (i : Nat) :
    (wordOf op sel).getLsbD i =
      if i < 6 then sel.getLsbD i else if i - 6 < 6 then false else op.getLsbD (i - 6 - 6) := by
  have h : (wordOf op sel).getLsbD i = ((op ++ 0#6 : BitVec (4 + 6)) ++ sel : BitVec (4 + 6 + 6)).getLsbD i := rfl
  rw [h, BitVec.getLsbD_append, BitVec.getLsbD_append]
  simp

theorem wordOf_fieldZ (op : BitVec 4) (sel : BitVec 6) : fieldZ (wordOf op sel) = 0#6 := by
  apply BitVec.eq_of_getLsbD_eq
  intro i hi
  rw [fieldZ, BitVec.getLsbD_extractLsb', wordOf_getLsbD, if_neg (by omega), if_pos (by omega)]
  simp

theorem wordOf_fieldSel (op : BitVec 4) (sel : BitVec 6) : fieldSel (wordOf op sel) = sel := by
  apply BitVec.eq_of_getLsbD_eq
  intro i hi
  rw [fieldSel, BitVec.getLsbD_extractLsb', wordOf_getLsbD, if_pos (by omega)]
  simp [hi]

theorem wordOf_fieldOp (op : BitVec 4) (sel : BitVec 6) : fieldOp (wordOf op sel) = op := by
  apply BitVec.eq_of_getLsbD_eq
  intro i hi
  have h : 12 + i - 6 - 6 = i := by omega
  rw [fieldOp, BitVec.getLsbD_extractLsb', wordOf_getLsbD, if_neg (by omega), if_neg (by omega), h]
  simp [hi]

/-- A word whose field `Z` is 0 is the word of its two other fields. -/
theorem eq_wordOf {cw : CmdWord} (h : fieldZ cw = 0#6) : cw = wordOf (fieldOp cw) (fieldSel cw) := by
  apply BitVec.eq_of_getLsbD_eq
  intro i hi
  rw [wordOf_getLsbD]
  by_cases h6 : i < 6
  · simp [h6, fieldSel]
  · rw [if_neg h6]
    by_cases h12 : i - 6 < 6
    · rw [if_pos h12]
      have hz : (fieldZ cw).getLsbD (i - 6) = false := by simp [h]
      have hi6 : 6 + (i - 6) = i := by omega
      simpa [fieldZ, BitVec.getLsbD_extractLsb', h12, hi6] using hz
    · rw [if_neg h12]
      have h1 : i - 6 - 6 < 4 := by omega
      have h2 : 12 + (i - 6 - 6) = i := by omega
      rw [fieldOp, BitVec.getLsbD_extractLsb', h2]
      simp [h1]

end Sys2Proof
end

