-- ==== Sys2Proof/Laws/State.lean ====
section
/-! SUPPORT. What each field of the state is after each update of Machine/Ops.lean, Machine/New.lean, Machine/Crypt.lean and
Safety.lean, and the fields of the reset state. -/

namespace Sys2Proof.Machine.State

@[simp] theorem respond_l (s : State) (q0 q1 : Word64) : (s.respond q0 q1).l = s.l := rfl
@[simp] theorem respond_r (s : State) (q0 q1 : Word64) : (s.respond q0 q1).r = s.r := rfl
@[simp] theorem respond_c (s : State) (q0 q1 : Word64) : (s.respond q0 q1).c = s.c := rfl
@[simp] theorem respond_d (s : State) (q0 q1 : Word64) : (s.respond q0 q1).d = s.d := rfl
@[simp] theorem respond_ph (s : State) (q0 q1 : Word64) : (s.respond q0 q1).ph = s.ph := rfl
@[simp] theorem respond_rc (s : State) (q0 q1 : Word64) : (s.respond q0 q1).rc = s.rc := rfl
@[simp] theorem respond_dir (s : State) (q0 q1 : Word64) : (s.respond q0 q1).dir = s.dir := rfl
@[simp] theorem respond_ks (s : State) (q0 q1 : Word64) : (s.respond q0 q1).ks = s.ks := rfl
@[simp] theorem respond_kv (s : State) (q0 q1 : Word64) : (s.respond q0 q1).kv = s.kv := rfl
@[simp] theorem respond_flt (s : State) (q0 q1 : Word64) : (s.respond q0 q1).flt = s.flt := rfl
@[simp] theorem respond_inputs (s : State) (q0 q1 : Word64) : (s.respond q0 q1).inputs = s.inputs := rfl
@[simp] theorem respond_rsp (s : State) (q0 q1 : Word64) : (s.respond q0 q1).rsp = some { err := .ok, q0 := q0, q1 := q1 } := rfl

@[simp] theorem raise_l (s : State) (e : Cause) : (s.raise e).l = s.l := rfl
@[simp] theorem raise_r (s : State) (e : Cause) : (s.raise e).r = s.r := rfl
@[simp] theorem raise_c (s : State) (e : Cause) : (s.raise e).c = s.c := rfl
@[simp] theorem raise_d (s : State) (e : Cause) : (s.raise e).d = s.d := rfl
@[simp] theorem raise_ph (s : State) (e : Cause) : (s.raise e).ph = s.ph := rfl
@[simp] theorem raise_rc (s : State) (e : Cause) : (s.raise e).rc = s.rc := rfl
@[simp] theorem raise_dir (s : State) (e : Cause) : (s.raise e).dir = s.dir := rfl
@[simp] theorem raise_ks (s : State) (e : Cause) : (s.raise e).ks = s.ks := rfl
@[simp] theorem raise_kv (s : State) (e : Cause) : (s.raise e).kv = s.kv := rfl
@[simp] theorem raise_flt (s : State) (e : Cause) : (s.raise e).flt = setFaultBit e s.flt := rfl
@[simp] theorem raise_inputs (s : State) (e : Cause) : (s.raise e).inputs = s.inputs := rfl
@[simp] theorem raise_rsp (s : State) (e : Cause) : (s.raise e).rsp = some { err := .fault e, q0 := 0#64, q1 := 0#64 } := rfl

@[simp] theorem advance_l (s : State) : (s.advance).l = s.l := rfl
@[simp] theorem advance_r (s : State) : (s.advance).r = s.r := rfl
@[simp] theorem advance_c (s : State) : (s.advance).c = s.c := rfl
@[simp] theorem advance_d (s : State) : (s.advance).d = s.d := rfl
@[simp] theorem advance_ph (s : State) : (s.advance).ph = s.ph := rfl
@[simp] theorem advance_rc (s : State) : (s.advance).rc = s.rc := rfl
@[simp] theorem advance_dir (s : State) : (s.advance).dir = s.dir := rfl
@[simp] theorem advance_ks (s : State) : (s.advance).ks = s.ks := rfl
@[simp] theorem advance_kv (s : State) : (s.advance).kv = s.kv := rfl
@[simp] theorem advance_flt (s : State) : (s.advance).flt = s.flt := rfl
@[simp] theorem advance_inputs (s : State) : (s.advance).inputs = s.inputs.tail := rfl
@[simp] theorem advance_rsp (s : State) : (s.advance).rsp = s.rsp := rfl

@[simp] theorem silent_l (s : State) : (s.silent).l = s.l := rfl
@[simp] theorem silent_r (s : State) : (s.silent).r = s.r := rfl
@[simp] theorem silent_c (s : State) : (s.silent).c = s.c := rfl
@[simp] theorem silent_d (s : State) : (s.silent).d = s.d := rfl
@[simp] theorem silent_ph (s : State) : (s.silent).ph = s.ph := rfl
@[simp] theorem silent_rc (s : State) : (s.silent).rc = s.rc := rfl
@[simp] theorem silent_dir (s : State) : (s.silent).dir = s.dir := rfl
@[simp] theorem silent_ks (s : State) : (s.silent).ks = s.ks := rfl
@[simp] theorem silent_kv (s : State) : (s.silent).kv = s.kv := rfl
@[simp] theorem silent_flt (s : State) : (s.silent).flt = s.flt := rfl
@[simp] theorem silent_inputs (s : State) : (s.silent).inputs = s.inputs := rfl
@[simp] theorem silent_rsp (s : State) : (s.silent).rsp = none := rfl

@[simp] theorem endKeygen_l (s : State) : (s.endKeygen).l = s.l := rfl
@[simp] theorem endKeygen_r (s : State) : (s.endKeygen).r = s.r := rfl
@[simp] theorem endKeygen_c (s : State) : (s.endKeygen).c = 0#28 := rfl
@[simp] theorem endKeygen_d (s : State) : (s.endKeygen).d = 0#28 := rfl
@[simp] theorem endKeygen_ph (s : State) : (s.endKeygen).ph = .idle := rfl
@[simp] theorem endKeygen_rc (s : State) : (s.endKeygen).rc = 0 := rfl
@[simp] theorem endKeygen_dir (s : State) : (s.endKeygen).dir = s.dir := rfl
@[simp] theorem endKeygen_ks (s : State) : (s.endKeygen).ks = s.ks := rfl
@[simp] theorem endKeygen_kv (s : State) : (s.endKeygen).kv = s.kv := rfl
@[simp] theorem endKeygen_flt (s : State) : (s.endKeygen).flt = s.flt := rfl
@[simp] theorem endKeygen_inputs (s : State) : (s.endKeygen).inputs = s.inputs := rfl
@[simp] theorem endKeygen_rsp (s : State) : (s.endKeygen).rsp = s.rsp := rfl

@[simp] theorem endCrypt_l (s : State) : (s.endCrypt).l = 0#32 := rfl
@[simp] theorem endCrypt_r (s : State) : (s.endCrypt).r = 0#32 := rfl
@[simp] theorem endCrypt_c (s : State) : (s.endCrypt).c = s.c := rfl
@[simp] theorem endCrypt_d (s : State) : (s.endCrypt).d = s.d := rfl
@[simp] theorem endCrypt_ph (s : State) : (s.endCrypt).ph = .idle := rfl
@[simp] theorem endCrypt_rc (s : State) : (s.endCrypt).rc = 0 := rfl
@[simp] theorem endCrypt_dir (s : State) : (s.endCrypt).dir = false := rfl
@[simp] theorem endCrypt_ks (s : State) : (s.endCrypt).ks = s.ks := rfl
@[simp] theorem endCrypt_kv (s : State) : (s.endCrypt).kv = s.kv := rfl
@[simp] theorem endCrypt_flt (s : State) : (s.endCrypt).flt = s.flt := rfl
@[simp] theorem endCrypt_inputs (s : State) : (s.endCrypt).inputs = s.inputs := rfl
@[simp] theorem endCrypt_rsp (s : State) : (s.endCrypt).rsp = s.rsp := rfl

@[simp] theorem resetNow_l (s : State) : (s.resetNow).l = 0#32 := rfl
@[simp] theorem resetNow_r (s : State) : (s.resetNow).r = 0#32 := rfl
@[simp] theorem resetNow_c (s : State) : (s.resetNow).c = 0#28 := rfl
@[simp] theorem resetNow_d (s : State) : (s.resetNow).d = 0#28 := rfl
@[simp] theorem resetNow_ph (s : State) : (s.resetNow).ph = .idle := rfl
@[simp] theorem resetNow_rc (s : State) : (s.resetNow).rc = 0 := rfl
@[simp] theorem resetNow_dir (s : State) : (s.resetNow).dir = false := rfl
@[simp] theorem resetNow_ks (s : State) : (s.resetNow).ks = emptyStore := rfl
@[simp] theorem resetNow_kv (s : State) : (s.resetNow).kv = false := rfl
@[simp] theorem resetNow_flt (s : State) : (s.resetNow).flt = 0#4 := rfl
@[simp] theorem resetNow_inputs (s : State) : (s.resetNow).inputs = s.inputs.tail := rfl
@[simp] theorem resetNow_rsp (s : State) : (s.resetNow).rsp = none := rfl

@[simp] theorem present_l (s : State) (cmd : Command) : (s.present cmd).l = s.l := rfl
@[simp] theorem present_r (s : State) (cmd : Command) : (s.present cmd).r = s.r := rfl
@[simp] theorem present_c (s : State) (cmd : Command) : (s.present cmd).c = s.c := rfl
@[simp] theorem present_d (s : State) (cmd : Command) : (s.present cmd).d = s.d := rfl
@[simp] theorem present_ph (s : State) (cmd : Command) : (s.present cmd).ph = s.ph := rfl
@[simp] theorem present_rc (s : State) (cmd : Command) : (s.present cmd).rc = s.rc := rfl
@[simp] theorem present_dir (s : State) (cmd : Command) : (s.present cmd).dir = s.dir := rfl
@[simp] theorem present_ks (s : State) (cmd : Command) : (s.present cmd).ks = s.ks := rfl
@[simp] theorem present_kv (s : State) (cmd : Command) : (s.present cmd).kv = s.kv := rfl
@[simp] theorem present_flt (s : State) (cmd : Command) : (s.present cmd).flt = s.flt := rfl
@[simp] theorem present_inputs (s : State) (cmd : Command) : (s.present cmd).inputs = [.command cmd] := rfl
@[simp] theorem present_rsp (s : State) (cmd : Command) : (s.present cmd).rsp = s.rsp := rfl

@[simp] theorem reset_l : State.reset.l = 0#32 := rfl
@[simp] theorem reset_r : State.reset.r = 0#32 := rfl
@[simp] theorem reset_c : State.reset.c = 0#28 := rfl
@[simp] theorem reset_d : State.reset.d = 0#28 := rfl
@[simp] theorem reset_ph : State.reset.ph = .idle := rfl
@[simp] theorem reset_rc : State.reset.rc = 0 := rfl
@[simp] theorem reset_dir : State.reset.dir = false := rfl
@[simp] theorem reset_ks : State.reset.ks = emptyStore := rfl
@[simp] theorem reset_kv : State.reset.kv = false := rfl
@[simp] theorem reset_flt : State.reset.flt = 0#4 := rfl
@[simp] theorem reset_inputs : State.reset.inputs = [] := rfl
@[simp] theorem reset_rsp : State.reset.rsp = none := rfl

@[simp] theorem hold_l (s : State) : s.hold.l = s.l := rfl
@[simp] theorem hold_r (s : State) : s.hold.r = s.r := rfl
@[simp] theorem hold_c (s : State) : s.hold.c = s.c := rfl
@[simp] theorem hold_d (s : State) : s.hold.d = s.d := rfl
@[simp] theorem hold_ph (s : State) : s.hold.ph = s.ph := rfl
@[simp] theorem hold_rc (s : State) : s.hold.rc = s.rc := rfl
@[simp] theorem hold_dir (s : State) : s.hold.dir = s.dir := rfl
@[simp] theorem hold_ks (s : State) : s.hold.ks = s.ks := rfl
@[simp] theorem hold_kv (s : State) : s.hold.kv = s.kv := rfl
@[simp] theorem hold_flt (s : State) : s.hold.flt = s.flt := rfl
@[simp] theorem hold_inputs (s : State) : s.hold.inputs = heldInputs s.inputs := rfl
@[simp] theorem hold_rsp (s : State) : s.hold.rsp = s.rsp := rfl

end Sys2Proof.Machine.State
end

