-- ==== Sys2Proof/Laws/Ops.lean ====
section
/-! SUPPORT. One lemma for each shared operation of Machine/Operands.lean, Machine/Flags.lean and Machine/Ops.lean that says
what it gives. -/

namespace Sys2Proof.Machine

theorem fits_iff (v : Word64) (w : Nat) : fits v w = true ↔ v.toNat < 2 ^ w := by simp [fits]

theorem fits_false_iff (v : Word64) (w : Nat) : fits v w = false ↔ 2 ^ w ≤ v.toNat := by simp [fits]

theorem now_of_command {s : State} {cmd : Command} {rest : List PortIn} (h : s.inputs = .command cmd :: rest) :
    s.now = .command cmd := by simp [State.now, h]

theorem opA_of_command {s : State} {cmd : Command} {rest : List PortIn} (h : s.inputs = .command cmd :: rest) :
    s.opA = cmd.a := by simp [State.opA, now_of_command h]

theorem opB_of_command {s : State} {cmd : Command} {rest : List PortIn} (h : s.inputs = .command cmd :: rest) :
    s.opB = cmd.b := by simp [State.opB, now_of_command h]

@[simp] theorem opA_present (s : State) (cmd : Command) : (s.present cmd).opA = cmd.a := rfl

@[simp] theorem opB_present (s : State) (cmd : Command) : (s.present cmd).opB = cmd.b := rfl

/-- Everything `answer` can do: complete with two results, or take a fault. -/
theorem answer_cases {res : Except Cause (Word64 × Word64)} {s t : State} (h : answer res s = .next t) :
    (∃ q, res = .ok q ∧ t = s.respond q.1 q.2) ∨ (∃ e, res = .error e ∧ t = s.raise e) := by
  cases res with
  | ok q => exact .inl ⟨q, rfl, by simpa [answer] using h.symm⟩
  | error e => exact .inr ⟨e, rfl, by simpa [answer] using h.symm⟩

/-- Everything `answerOne` can do: complete with one result, or take a fault. -/
theorem answerOne_cases {res : Except Cause Word64} {s t : State} (h : answerOne res s = .next t) :
    (∃ q, res = .ok q ∧ t = s.respond q 0#64) ∨ (∃ e, res = .error e ∧ t = s.raise e) := by
  cases res with
  | ok q => exact .inl ⟨q, rfl, by simpa [answerOne] using h.symm⟩
  | error e => exact .inr ⟨e, rfl, by simpa [answerOne] using h.symm⟩

/-- A fault sets the bit of its cause and leaves the other bits of `FLT`. -/
theorem setFaultBit_getLsbD (e : Cause) (flt : BitVec 4) (i : Nat) (hi : i < 4) :
    (setFaultBit e flt).getLsbD i = (flt.getLsbD i || decide (i = causeBit e)) := by
  have h : i = 0 ∨ i = 1 ∨ i = 2 ∨ i = 3 := by omega
  rcases h with rfl | rfl | rfl | rfl <;> cases e <;> simp [setFaultBit, causeBit]

@[simp] theorem entryValue_some (i : Nat) (k : Subkey) : entryValue i (some k) = k := rfl

@[simp] theorem fullStore_getElem (ks : Schedule) (i : Nat) (hi : i < 16) : (fullStore ks)[i] = some ks[i] := by
  simp [fullStore]

@[simp] theorem emptyStore_getElem (i : Nat) (hi : i < 16) : emptyStore[i] = none := by simp [emptyStore]

theorem schedule_getElem (s : State) (i : Nat) (hi : i < 16) : s.schedule[i] = entryValue i s.ks[i] := by
  simp [State.schedule]

/-- A store that holds a schedule in full is read back as that schedule. -/
theorem schedule_of_full {s : State} {ks : Schedule} (h : s.ks = fullStore ks) : s.schedule = ks := by
  apply Vector.ext
  intro i hi
  simp [schedule_getElem, h]

theorem storeEntry_getElem (ks : Vector (Option Subkey) 16) (i : Fin 16) (k : Subkey) (j : Nat) (hj : j < 16) :
    (storeEntry ks i k)[j] = if i.val = j then some k else ks[j] := by
  simp [storeEntry, Vector.getElem_set]

/-- A store each of whose entries is the schedule's holds it in full. -/
theorem eq_fullStore {st : Vector (Option Subkey) 16} {ks : Schedule} (h : ∀ i : Fin 16, st[i] = some ks[i]) :
    st = fullStore ks := by
  apply Vector.ext
  intro i hi
  rw [fullStore_getElem]
  exact h ⟨i, hi⟩

end Sys2Proof.Machine
end

