-- ==== Sys2Proof/Laws/Primitives.lean ====
section
/-! SUPPORT. What the five primitives compute, bit by bit (40_primitives.md), and when they fault. -/

namespace Sys2Proof.Machine

theorem permuteStep_getLsbD {w n : Nat} (v : BitVec w) (out : BitVec n) (p i : Nat) (hi : i < n) :
    (permuteStep n v out p).getLsbD i = if i = 0 then mbit v p else out.getLsbD (i - 1) := by
  unfold permuteStep
  cases i with
  | zero => simp [hi]
  | succ i =>
    have h : i < n := by omega
    simp [hi, h, BitVec.getLsbD_eq_getElem]

theorem permute_foldl_getLsbD {w n : Nat} (v : BitVec w) (table : List Nat) (out : BitVec n) (i : Nat) (hi : i < n) :
    (table.foldl (permuteStep n v) out).getLsbD i =
      if i < table.length then mbit v (table.getD (table.length - 1 - i) 0) else out.getLsbD (i - table.length) := by
  induction table generalizing out with
  | nil => simp
  | cons p table ih =>
    rw [List.foldl_cons, ih, List.length_cons]
    by_cases h : i < table.length
    · have h1 : table.length + 1 - 1 - i = (table.length - 1 - i) + 1 := by omega
      rw [if_pos h, if_pos (by omega), h1, List.getD_cons_succ]
    · rw [if_neg h, permuteStep_getLsbD _ _ _ _ (by omega)]
      by_cases h3 : i = table.length
      · subst h3
        simp
      · have h7 : i - table.length - 1 = i - (table.length + 1) := by omega
        rw [if_neg (by omega), if_neg (by omega), h7]

/-- Bit `i` of the output, counted from the least significant, is the input bit at position `T[n-1-i]` (rule R120). -/
theorem permuteBits_getLsbD {w : Nat} (n : Nat) (table : List Nat) (v : BitVec w) (hn : table.length = n) (i : Nat)
    (hi : i < n) : (permuteBits n table v).getLsbD i = mbit v (table.getD (n - 1 - i) 0) := by
  subst hn
  rw [permuteBits, permute_foldl_getLsbD _ _ _ _ hi, if_pos hi]

theorem mbit_xor {w : Nat} (a b : BitVec w) (p : Nat) : mbit (a ^^^ b) p = (mbit a p ^^ mbit b p) := by
  simp [mbit]

/-- `permute` moves bits only, so it commutes with the exclusive or. -/
theorem permuteBits_xor {w : Nat} (n : Nat) (table : List Nat) (a b : BitVec w) (hn : table.length = n) :
    permuteBits n table (a ^^^ b) = permuteBits n table a ^^^ permuteBits n table b := by
  apply BitVec.eq_of_getLsbD_eq
  intro i hi
  simp only [BitVec.getLsbD_xor, permuteBits_getLsbD n table _ hn i hi, mbit_xor]

theorem permute_of_fits {v : Word64} {w : Nat} {table : List Nat} (ht : tableOk table w = true) (hv : v.toNat < 2 ^ w) :
    permute v w table = .ok ((permuteBits table.length table (v.setWidth w)).setWidth 64) := by
  simp [permute, ht, fits, hv]

theorem permute_of_wide {v : Word64} {w : Nat} {table : List Nat} (ht : tableOk table w = true) (hv : 2 ^ w ≤ v.toNat) :
    permute v w table = .error .width := by
  have h : fits v w = false := (fits_false_iff v w).2 hv
  simp [permute, ht, h]

theorem permute_of_bad_table {v : Word64} {w : Nat} {table : List Nat} (ht : tableOk table w = false) :
    permute v w table = .error .table := by simp [permute, ht]

theorem tableOk_ip : tableOk Rom.ip 64 = true := by decide
theorem tableOk_fp : tableOk Rom.fp 64 = true := by decide
theorem tableOk_pc1 : tableOk Rom.pc1 64 = true := by decide
theorem tableOk_pc2 : tableOk Rom.pc2 56 = true := by decide
theorem tableOk_e : tableOk Rom.e 32 = true := by decide
theorem tableOk_p : tableOk Rom.p 32 = true := by decide

theorem splitBits_fst_getLsbD {hw : Nat} (v : BitVec (hw + hw)) (i : Nat) (hi : i < hw) :
    (splitBits hw v).1.getLsbD i = v.getLsbD (hw + i) := by simp [splitBits, hi]

theorem splitBits_snd_getLsbD {hw : Nat} (v : BitVec (hw + hw)) (i : Nat) (hi : i < hw) :
    (splitBits hw v).2.getLsbD i = v.getLsbD i := by simp [splitBits, hi]

theorem mergeBits_getLsbD {hw : Nat} (l r : BitVec hw) (i : Nat) :
    (mergeBits l r).getLsbD i = if i < hw then r.getLsbD i else l.getLsbD (i - hw) := by
  simp [mergeBits, BitVec.getLsbD_append]

/-- "These must round-trip" (rule R142), on fields. -/
theorem mergeBits_splitBits {hw : Nat} (v : BitVec (hw + hw)) : mergeBits (splitBits hw v).1 (splitBits hw v).2 = v := by
  apply BitVec.eq_of_getLsbD_eq
  intro i hi
  rw [mergeBits_getLsbD]
  by_cases h : i < hw
  · rw [if_pos h, splitBits_snd_getLsbD v i h]
  · rw [if_neg h, splitBits_fst_getLsbD v _ (by omega)]
    congr 1
    omega

theorem splitBits_mergeBits {hw : Nat} (l r : BitVec hw) : splitBits hw (mergeBits l r) = (l, r) := by
  apply Prod.ext
  · apply BitVec.eq_of_getLsbD_eq
    intro i hi
    rw [splitBits_fst_getLsbD _ i hi, mergeBits_getLsbD, if_neg (by omega)]
    congr 1
    omega
  · apply BitVec.eq_of_getLsbD_eq
    intro i hi
    rw [splitBits_snd_getLsbD _ i hi, mergeBits_getLsbD, if_pos hi]

theorem split_of_fits {v : Word64} {hw : Nat} (h : v.toNat < 2 ^ (2 * hw)) :
    split v hw = .ok (v >>> hw, BitVec.ofNat 64 (v.toNat % 2 ^ hw)) := by simp [split, fits, h]

theorem split_of_wide {v : Word64} {hw : Nat} (h : 2 ^ (2 * hw) ≤ v.toNat) : split v hw = .error .width := by
  simp [split, (fits_false_iff v _).2 h]

theorem merge_of_fits {a b : Word64} {hw : Nat} (ha : a.toNat < 2 ^ hw) (hb : b.toNat < 2 ^ hw) :
    merge a b hw = .ok (BitVec.ofNat 64 (a.toNat * 2 ^ hw + b.toNat)) := by simp [merge, fits, ha, hb]

theorem merge_of_wide {a b : Word64} {hw : Nat} (h : 2 ^ hw ≤ a.toNat ∨ 2 ^ hw ≤ b.toNat) :
    merge a b hw = .error .width := by
  rcases h with h | h
  · simp [merge, (fits_false_iff a _).2 h]
  · simp [merge, (fits_false_iff b _).2 h]

theorem substitute_of_fits {c : Word64} (j : Nat) (h : c.toNat < 64) :
    substitute c j = .ok ((substituteBits (c.setWidth 6) j).setWidth 64) := by
  have h' : fits c 6 = true := (fits_iff c 6).2 h
  simp [substitute, h']

theorem substitute_of_wide {c : Word64} (j : Nat) (h : 64 ≤ c.toNat) : substitute c j = .error .width := by
  have h' : fits c 6 = false := (fits_false_iff c 6).2 h
  simp [substitute, h']

/-- The rotation of rule R139 is the library's rotation of a 28-bit field. -/
theorem rotateLeftBits_eq (v : KHalf) (n : Nat) (hn : n < 28) : rotateLeftBits v n = v.rotateLeft n := by
  simp [rotateLeftBits, BitVec.rotateLeft, BitVec.rotateLeftAux, Nat.mod_eq_of_lt hn]

theorem rotateLeft_of_fits {v : Word64} (n : Nat) (h : v.toNat < 2 ^ 28) :
    rotateLeft v n = .ok ((rotateLeftBits (v.setWidth 28) n).setWidth 64) := by
  have h' : fits v 28 = true := (fits_iff v 28).2 h
  simp [rotateLeft, h']

theorem rotateLeft_of_wide {v : Word64} (n : Nat) (h : 2 ^ 28 ≤ v.toNat) : rotateLeft v n = .error .width := by
  have h' : fits v 28 = false := (fits_false_iff v 28).2 h
  simp [rotateLeft, h']

end Sys2Proof.Machine
end

