-- ==== Sys2Proof/Laws/Engine.lean ====
section
/-! SUPPORT. The key schedule, the round function and the cipher engine: the small facts that the rules of
41_key_schedule.md, 42_round_function.md and 43_cipher_engine.md are proved from. -/

namespace Sys2Proof.Machine

@[simp] theorem carryState_zero (key : Word64) : carryState key 0 = permuteBits 56 Rom.pc1 key := rfl

@[simp] theorem carryState_succ (key : Word64) (i : Nat) :
    carryState key (i + 1) = carryRound (Rom.rot i) (carryState key i) := rfl

theorem keysched_getElem (key : Word64) (i : Nat) (hi : i < 16) :
    (keysched key)[i] = subkeyOf (carryState key (i + 1)) := by simp [keysched]

/-- One schedule round on the two halves kept apart. -/
theorem carryRound_mergeBits (n : Nat) (c d : KHalf) :
    carryRound n (mergeBits c d) = mergeBits (rotateLeftBits c n) (rotateLeftBits d n) := by
  unfold carryRound
  rw [splitBits_mergeBits c d]

theorem roundFunction_of_fits {r k : Word64} (hr : r.toNat < 2 ^ 32) (hk : k.toNat < 2 ^ 48) :
    roundFunction r k = .ok ((roundFunctionBits (r.setWidth 32) (k.setWidth 48)).setWidth 64) := by
  have hr' : fits r 32 = true := (fits_iff r 32).2 hr
  have hk' : fits k 48 = true := (fits_iff k 48).2 hk
  simp [roundFunction, hr', hk']

theorem roundFunction_of_wide {r k : Word64} (h : 2 ^ 32 ≤ r.toNat ∨ 2 ^ 48 ≤ k.toNat) :
    roundFunction r k = .error .width := by
  rcases h with h | h
  · have h' : fits r 32 = false := (fits_false_iff r 32).2 h
    simp [roundFunction, h']
  · have h' : fits k 48 = false := (fits_false_iff k 48).2 h
    simp [roundFunction, h']

/-- One Feistel round. -/
@[simp] theorem feistelRound_mk (k : Subkey) (l r : Half) :
    feistelRound k (l, r) = (r, l ^^^ roundFunctionBits r k) := rfl

/-- A round, the swap, the same round and the swap give the pair back, whatever the round function is. -/
theorem feistelRound_swap (k : Subkey) (x : Half × Half) :
    (feistelRound k (feistelRound k x).swap).swap = x := by
  obtain ⟨l, r⟩ := x
  simp [feistelRound, Prod.swap]

theorem subkeyIndex_false (j : Fin 16) : subkeyIndex false j = j := rfl

theorem subkeyIndex_true (j : Fin 16) : subkeyIndex true j = j.rev := rfl

end Sys2Proof.Machine
end

