-- ==== Sys2Proof/Laws/Exec.lean ====
section
/-! SUPPORT. Everything a command and a step can do, said once: a command always answers a next state, and that state is the
old one with a response, with a fault taken, or with the effect of NEW, ENC or DEC. -/

namespace Sys2Proof.Machine

/-- The outcome of a command that writes nothing but its response and, on a fault, the sticky bit. -/
def PureOutcome (s t : State) : Prop :=
  (∃ q0 q1, t = s.respond q0 q1) ∨ ∃ e, e ≠ Cause.table ∧ t = s.raise e

theorem answer_pure {res : Except Cause (Word64 × Word64)} (s : State) (h : res ≠ .error .table) :
    ∃ t, answer res s = .next t ∧ PureOutcome s t := by
  cases res with
  | ok q => exact ⟨_, rfl, .inl ⟨q.1, q.2, rfl⟩⟩
  | error e => exact ⟨_, rfl, .inr ⟨e, fun he => h (by rw [he]), rfl⟩⟩

theorem answerOne_pure {res : Except Cause Word64} (s : State) (h : res ≠ .error .table) :
    ∃ t, answerOne res s = .next t ∧ PureOutcome s t := by
  cases res with
  | ok q => exact ⟨_, rfl, .inl ⟨q, 0#64, rfl⟩⟩
  | error e => exact ⟨_, rfl, .inr ⟨e, fun he => h (by rw [he]), rfl⟩⟩

/-- A good table is never the fault TABLE (60_exceptions.md rule R212). -/
theorem permute_ne_table {v : Word64} {w : Nat} {table : List Nat} (ht : tableOk table w = true) :
    permute v w table ≠ .error .table := by
  by_cases hv : v.toNat < 2 ^ w
  · simp [permute_of_fits ht hv]
  · simp [permute_of_wide ht (Nat.le_of_not_lt hv)]

theorem split_ne_table (v : Word64) (hw : Nat) : split v hw ≠ .error .table := by
  unfold split
  split <;> simp

theorem merge_ne_table (a b : Word64) (hw : Nat) : merge a b hw ≠ .error .table := by
  unfold merge
  split
  · simp
  · split <;> simp

theorem substitute_ne_table (c : Word64) (j : Nat) : substitute c j ≠ .error .table := by
  unfold substitute
  split <;> simp

theorem rotateLeft_ne_table (v : Word64) (n : Nat) : rotateLeft v n ≠ .error .table := by
  unfold rotateLeft
  split <;> simp

theorem roundFunction_ne_table (r k : Word64) : roundFunction r k ≠ .error .table := by
  unfold roundFunction
  split
  · simp
  · split <;> simp

theorem execSplit_pure (hw : BitVec 6) (s : State) : ∃ t, execSplit hw s = .next t ∧ PureOutcome s t := by
  unfold execSplit
  split
  · exact answer_pure s (split_ne_table _ _)
  · exact ⟨_, rfl, .inr ⟨.illcmd, by decide, rfl⟩⟩

theorem execMerge_pure (hw : BitVec 6) (s : State) : ∃ t, execMerge hw s = .next t ∧ PureOutcome s t := by
  unfold execMerge
  split
  · exact answerOne_pure s (merge_ne_table _ _ _)
  · exact ⟨_, rfl, .inr ⟨.illcmd, by decide, rfl⟩⟩

/-- The state NEW leaves (41_key_schedule.md rule R150). -/
def newState (s : State) : State :=
  { s.endKeygen with ks := fullStore (keysched s.opA), kv := true }.respond 0#64 0#64

/-- ENC and DEC: NOKEY, or the engine's result with the working registers cleared. -/
theorem cryptCommand_cases (dir : Bool) (s : State) :
    (s.kv = false ∧ cryptCommand dir s = .next (s.raise .nokey)) ∨
      (s.kv = true ∧ cryptCommand dir s = .next (s.endCrypt.respond (crypt s.schedule s.opA dir) 0#64)) := by
  unfold cryptCommand
  cases h : s.kv <;> simp

/-- A state that a command can leave. -/
def CommandOutcome (i : Instr) (s t : State) : Prop :=
  PureOutcome s t ∨ (i = .new ∧ t = newState s) ∨
    ((i = .enc ∨ i = .dec) ∧ s.kv = true ∧ ∃ q, t = s.endCrypt.respond q 0#64)

theorem cryptCommand_outcome (i : Instr) (hi : i = .enc ∨ i = .dec) (dir : Bool) (s : State) :
    ∃ t, cryptCommand dir s = .next t ∧ CommandOutcome i s t := by
  rcases cryptCommand_cases dir s with ⟨_, h⟩ | ⟨hk, h⟩
  · exact ⟨_, h, .inl (.inr ⟨.nokey, by decide, rfl⟩)⟩
  · exact ⟨_, h, .inr (.inr ⟨hi, hk, _, rfl⟩)⟩

/-- Every command answers a next state, and this is all it can be. -/
theorem exec_outcome (i : Instr) (s : State) : ∃ t, exec i s = .next t ∧ CommandOutcome i s t := by
  have lift : ∀ {o : Host.Outcome State Fault Refusal}, (∃ t, o = .next t ∧ PureOutcome s t) →
      ∃ t, o = .next t ∧ CommandOutcome i s t := fun ⟨t, h, hp⟩ => ⟨t, h, .inl hp⟩
  cases i with
  | permIp => exact lift (answerOne_pure s (permute_ne_table tableOk_ip))
  | permFp => exact lift (answerOne_pure s (permute_ne_table tableOk_fp))
  | permPc1 => exact lift (answerOne_pure s (permute_ne_table tableOk_pc1))
  | permPc2 => exact lift (answerOne_pure s (permute_ne_table tableOk_pc2))
  | permE => exact lift (answerOne_pure s (permute_ne_table tableOk_e))
  | permP => exact lift (answerOne_pure s (permute_ne_table tableOk_p))
  | split hw => exact lift (execSplit_pure hw s)
  | merge hw => exact lift (execMerge_pure hw s)
  | substS1 => exact lift (answerOne_pure s (substitute_ne_table _ _))
  | substS2 => exact lift (answerOne_pure s (substitute_ne_table _ _))
  | substS3 => exact lift (answerOne_pure s (substitute_ne_table _ _))
  | substS4 => exact lift (answerOne_pure s (substitute_ne_table _ _))
  | substS5 => exact lift (answerOne_pure s (substitute_ne_table _ _))
  | substS6 => exact lift (answerOne_pure s (substitute_ne_table _ _))
  | substS7 => exact lift (answerOne_pure s (substitute_ne_table _ _))
  | substS8 => exact lift (answerOne_pure s (substitute_ne_table _ _))
  | rotl1 => exact lift (answerOne_pure s (rotateLeft_ne_table _ _))
  | rotl2 => exact lift (answerOne_pure s (rotateLeft_ne_table _ _))
  | new => exact ⟨_, rfl, .inr (.inl ⟨rfl, rfl⟩)⟩
  | frnd => exact lift (answerOne_pure s (roundFunction_ne_table _ _))
  | enc => exact cryptCommand_outcome _ (.inl rfl) false s
  | dec => exact cryptCommand_outcome _ (.inr rfl) true s

/-- Every command answers a next state. -/
theorem exec_next (i : Instr) (s : State) : ∃ t, exec i s = .next t :=
  let ⟨t, h, _⟩ := exec_outcome i s
  ⟨t, h⟩

/-- What a command that answers `t` has done. -/
theorem exec_inv {i : Instr} {s t : State} (h : exec i s = .next t) : CommandOutcome i s t := by
  obtain ⟨u, hu, ho⟩ := exec_outcome i s
  rw [h] at hu
  cases hu
  exact ho

/-- No command takes anything from the port or puts anything on it; the step does. -/
theorem exec_inputs {i : Instr} {s t : State} (h : exec i s = .next t) : t.inputs = s.inputs := by
  rcases exec_inv h with (⟨q0, q1, rfl⟩ | ⟨e, -, rfl⟩) | ⟨-, rfl⟩ | ⟨-, -, q, rfl⟩ <;> rfl

/-- A command served in `IDLE`: the decoded instruction's command, and the port moves on. -/
theorem commandStep_of_decoded {s : State} {cmd : Command} {i : Instr} (hp : s.ph = .idle) (hn : s.now = .command cmd)
    (hd : decode cmd.cw = .ok i) : commandStep s = accepted (exec i s) := by
  simp [commandStep, portCycle, hn, busy, hp, commandWhole, hd]

/-- An illegal word in `IDLE`: ILLCMD, and the port moves on. -/
theorem commandStep_of_illegal {s : State} {cmd : Command} {e : DecodeError} (hp : s.ph = .idle)
    (hn : s.now = .command cmd) (hd : decode cmd.cw = .error e) :
    commandStep s = .next (s.raise .illcmd).advance := by
  simp [commandStep, portCycle, hn, busy, hp, commandWhole, hd, accepted]

theorem busy_iff (s : State) : busy s = true ↔ s.ph ≠ .idle := by
  cases h : s.ph <;> simp [busy, h]

/-- Everything a step can do: reset, an internal step of the command in progress, a cycle with nothing presented, an illegal
word, or an instruction. -/
theorem commandStep_cases {s t : State} (h : commandStep s = .next t) :
    (s.now = .reset ∧ t = s.resetNow) ∨
    (s.now ≠ .reset ∧ s.ph ≠ .idle ∧ t = busyCycle .one s) ∨
    (s.now = .quiet ∧ s.ph = .idle ∧ t = waitCycle s) ∨
    (∃ cmd e, s.now = .command cmd ∧ s.ph = .idle ∧ decode cmd.cw = .error e ∧ t = (s.raise .illcmd).advance) ∨
    (∃ cmd i u, s.now = .command cmd ∧ s.ph = .idle ∧ decode cmd.cw = .ok i ∧ exec i s = .next u ∧ t = u.advance) := by
  by_cases hb : s.ph = .idle
  · have hb' : busy s = false := by simp [busy, hb]
    cases hn : s.now with
    | reset => exact .inl ⟨rfl, by simpa [commandStep, portCycle, hn] using h.symm⟩
    | quiet => exact .inr (.inr (.inl ⟨rfl, hb, by simpa [commandStep, portCycle, hn, hb'] using h.symm⟩))
    | command cmd =>
      cases hd : decode cmd.cw with
      | error e =>
        rw [commandStep_of_illegal hb hn hd] at h
        cases h
        exact .inr (.inr (.inr (.inl ⟨cmd, e, rfl, hb, hd, rfl⟩)))
      | ok i =>
        obtain ⟨u, hu⟩ := exec_next i s
        rw [commandStep_of_decoded hb hn hd, hu] at h
        cases h
        exact .inr (.inr (.inr (.inr ⟨cmd, i, u, rfl, hb, hd, hu, rfl⟩)))
  · have hb' : busy s = true := (busy_iff s).2 hb
    cases hn : s.now with
    | reset => exact .inl ⟨rfl, by simpa [commandStep, portCycle, hn] using h.symm⟩
    | quiet =>
      exact .inr (.inl ⟨by simp, hb, by simpa [commandStep, portCycle, hn, hb'] using h.symm⟩)
    | command cmd =>
      exact .inr (.inl ⟨by simp, hb, by simpa [commandStep, portCycle, hn, hb'] using h.symm⟩)

end Sys2Proof.Machine
end

