-- ==== Sys2Proof/Laws/PerInstr.lean ====
section
/-! SUPPORT. The per-instruction family `Encoding`: the command word of a well-formed instruction has `Z` = 0 and an assigned
`OP` (30_encoding.md rules R91, R92). -/

namespace Sys2Proof.Laws.Encoding

/-- The statement about one instruction. -/
def Statement (i : Instr) : Prop :=
  i.WellFormed → fieldZ (encode i) = 0#6 ∧ 1 ≤ (fieldOp (encode i)).toNat ∧ (fieldOp (encode i)).toNat ≤ 9

theorem permIp : Statement .permIp := fun _ => by decide

theorem permFp : Statement .permFp := fun _ => by decide

theorem permPc1 : Statement .permPc1 := fun _ => by decide

theorem permPc2 : Statement .permPc2 := fun _ => by decide

theorem permE : Statement .permE := fun _ => by decide

theorem permP : Statement .permP := fun _ => by decide

theorem split (hw : BitVec 6) : Statement (.split hw) := fun _ =>
  ⟨wordOf_fieldZ _ _, by rw [encode, wordOf_fieldOp]; decide, by rw [encode, wordOf_fieldOp]; decide⟩

theorem merge (hw : BitVec 6) : Statement (.merge hw) := fun _ =>
  ⟨wordOf_fieldZ _ _, by rw [encode, wordOf_fieldOp]; decide, by rw [encode, wordOf_fieldOp]; decide⟩

theorem substS1 : Statement .substS1 := fun _ => by decide

theorem substS2 : Statement .substS2 := fun _ => by decide

theorem substS3 : Statement .substS3 := fun _ => by decide

theorem substS4 : Statement .substS4 := fun _ => by decide

theorem substS5 : Statement .substS5 := fun _ => by decide

theorem substS6 : Statement .substS6 := fun _ => by decide

theorem substS7 : Statement .substS7 := fun _ => by decide

theorem substS8 : Statement .substS8 := fun _ => by decide

theorem rotl1 : Statement .rotl1 := fun _ => by decide

theorem rotl2 : Statement .rotl2 := fun _ => by decide

theorem new : Statement .new := fun _ => by decide

theorem frnd : Statement .frnd := fun _ => by decide

theorem enc : Statement .enc := fun _ => by decide

theorem dec : Statement .dec := fun _ => by decide

end Sys2Proof.Laws.Encoding
end

