-- ==== Sys2Proof/Laws/Sequencer.lean ====
section
/-! SUPPORT. What one cycle of the port does in each of its cases, and what the cycles of a command in progress do: `RC`
advances by `UNROLL` up to 16 in an unchanged phase, and then the end step gives the response. -/

namespace Sys2Proof.Machine

theorem tick_of_reset {u : Config.Unroll} {s : State} (h : s.now = .reset) : tick u s = .next s.resetNow := by
  simp [tick, portCycle, h]

theorem tick_of_busy {u : Config.Unroll} {s : State} (h : s.now ≠ .reset) (hb : s.ph ≠ .idle) :
    tick u s = .next (busyCycle u s) := by
  have hb' : busy s = true := (busy_iff s).2 hb
  cases hn : s.now with
  | reset => exact absurd hn h
  | quiet => simp [tick, portCycle, hn, hb']
  | command cmd => simp [tick, portCycle, hn, hb']

theorem step_of_busy {s : State} (h : s.now ≠ .reset) (hb : s.ph ≠ .idle) : step s = .next (busyCycle .one s) := by
  have hb' : busy s = true := (busy_iff s).2 hb
  cases hn : s.now with
  | reset => exact absurd hn h
  | quiet => simp [step, commandStep, portCycle, hn, hb']
  | command cmd => simp [step, commandStep, portCycle, hn, hb']

theorem tick_of_quiet {u : Config.Unroll} {s : State} (h : s.now = .quiet) (hp : s.ph = .idle) :
    tick u s = .next (waitCycle s) := by
  simp [tick, portCycle, h, busy, hp]

theorem tick_of_command {u : Config.Unroll} {s : State} {cmd : Command} (h : s.now = .command cmd) (hp : s.ph = .idle) :
    tick u s = accepted (commandStart cmd s) := by
  simp [tick, portCycle, h, busy, hp]

/-- A round step of a command in progress advances `RC`, up to 16, and leaves the phase, the port and the response. -/
theorem roundStep_progress {s : State} (hb : s.ph ≠ .idle) :
    (roundStep s).rc.val = min 16 (s.rc.val + 1) ∧ (roundStep s).ph = s.ph ∧ (roundStep s).inputs = s.inputs ∧
      (roundStep s).rsp = s.rsp := by
  have hle := s.rc.isLt
  unfold roundStep
  split
  · cases hp : s.ph with
    | idle => exact absurd hp hb
    | keygen => exact ⟨by simp [stepK]; omega, hp, rfl, rfl⟩
    | crypt => exact ⟨by simp [stepC]; omega, hp, rfl, rfl⟩
  · exact ⟨by omega, rfl, rfl, rfl⟩

theorem roundSteps_progress (n : Nat) {s : State} (hb : s.ph ≠ .idle) :
    (roundSteps n s).rc.val = min 16 (s.rc.val + n) ∧ (roundSteps n s).ph = s.ph ∧ (roundSteps n s).inputs = s.inputs ∧
      (roundSteps n s).rsp = s.rsp := by
  induction n generalizing s with
  | zero => exact ⟨by have := s.rc.isLt; simp only [roundSteps]; omega, rfl, rfl, rfl⟩
  | succ n ih =>
    obtain ⟨h1, h2, h3, h4⟩ := roundStep_progress hb
    obtain ⟨g1, g2, g3, g4⟩ := ih (s := roundStep s) (by rw [h2]; exact hb)
    exact ⟨by rw [roundSteps, g1, h1]; omega, g2.trans h2, g3.trans h3, g4.trans h4⟩

theorem roundSteps_add (n m : Nat) (s : State) : roundSteps (n + m) s = roundSteps m (roundSteps n s) := by
  induction n generalizing s with
  | zero => simp [roundSteps]
  | succ n ih => rw [show n + 1 + m = n + m + 1 by omega, roundSteps, ih, roundSteps]

/-- What is on the port makes no difference to a round step or to the end step. -/
theorem roundSteps_inputs (n : Nat) (s : State) (xs : List PortIn) :
    roundSteps n { s with inputs := xs } = { roundSteps n s with inputs := xs } := by
  have one : ∀ s : State, roundStep { s with inputs := xs } = { roundStep s with inputs := xs } := by
    rintro ⟨l, r, c, d, ph, rc, dir, ks, kv, flt, inputs, rsp⟩
    unfold roundStep
    dsimp only
    split
    · cases ph <;> rfl
    · rfl
  induction n generalizing s with
  | zero => rfl
  | succ n ih => rw [roundSteps, one, ih, roundSteps]

theorem endStep_inputs (s : State) (xs : List PortIn) :
    endStep { s with inputs := xs } = { endStep s with inputs := xs } := by
  obtain ⟨l, r, c, d, ph, rc, dir, ks, kv, flt, inputs, rsp⟩ := s
  cases ph <;> rfl

/-- A cycle of a command in progress with rounds left. -/
theorem busyCycle_round {u : Config.Unroll} {s : State} (hb : s.ph ≠ .idle) (h : s.rc.val < 16) :
    busyCycle u s = roundSteps u.rounds s.hold.silent ∧ (busyCycle u s).rc.val = min 16 (s.rc.val + u.rounds) ∧
      (busyCycle u s).ph = s.ph ∧ (busyCycle u s).rsp = none ∧ (busyCycle u s).inputs = heldInputs s.inputs := by
  have he : busyCycle u s = roundSteps u.rounds s.hold.silent := by
    unfold busyCycle internalStep
    rw [if_pos (show s.hold.rc.val < 16 from h)]
  obtain ⟨h1, h2, h3, h4⟩ := roundSteps_progress u.rounds (s := s.hold.silent) hb
  exact ⟨he, by rw [he, h1]; rfl, by rw [he, h2]; rfl, by rw [he, h4]; rfl, by rw [he, h3]; rfl⟩

/-- The last cycle of a command in progress. -/
theorem busyCycle_end {u : Config.Unroll} {s : State} (hb : s.ph ≠ .idle) (h : s.rc.val = 16) :
    busyCycle u s = endStep s.hold.silent ∧ (busyCycle u s).ph = .idle ∧ (busyCycle u s).rsp ≠ none ∧
      (busyCycle u s).inputs = heldInputs s.inputs := by
  have he : busyCycle u s = endStep s.hold.silent := by
    unfold busyCycle internalStep
    rw [if_neg (by simp [h])]
  rw [he]
  unfold endStep
  cases hp : s.ph with
  | idle => exact absurd hp hb
  | keygen => simp [hp, stepKend]
  | crypt => simp [hp, stepCend]

end Sys2Proof.Machine
end

