-- ==== Sys2Proof/Tests/Slice0.lean ====
section
/-! SUPPORT. Tests: every word written out from the table of 30_encoding.md rule R93, one or two steps for each instruction
with results taken from 95_test_vectors.md, the well-formedness checks, and for each statement with hypotheses a state and
operands that meet them. -/

namespace Sys2Proof.Tests

open Sys2Proof.Machine

-- one test after another: each is an evaluation, and many at once need more memory than they are worth
set_option Elab.async false

/-- A state of `IDLE` with a key, `FLT` = 0. -/
def keyed (key : Word64) : State := { State.reset with ks := fullStore (keysched key), kv := true }

/-- The state after reset with one command presented. -/
def port (cw : CmdWord) (a b : Word64) : State := State.reset.present ⟨cw, a, b⟩

/-- The state an outcome gives. -/
def nextState : Host.Outcome State Fault Refusal → Option State
  | .next t => some t
  | .fault _ => none
  | .refused _ => none

/-- The response to one command. -/
def answerTo (cw : CmdWord) (a b : Word64) (s : State) : Option Response :=
  (nextState (transact ⟨cw, a, b⟩ s)).bind State.rsp

/-- The response of a command that completes. -/
def okay (q0 q1 : Word64) : Option Response := some { err := .ok, q0 := q0, q1 := q1 }

/-- The response of a command that faults. -/
def failed (c : Cause) : Option Response := some { err := .fault c, q0 := 0#64, q1 := 0#64 }

/-- The 64 results of a box for the chunks 0 to 63, one hexadecimal digit each, as 95_test_vectors.md section 2.4 lists
them. -/
def boxNumber (j : Nat) : Nat :=
  (List.range 64).foldl (fun n c => 16 * n + (substituteBits (BitVec.ofNat 6 c) j).toNat) 0

/-! ## Well-formedness: each check refuses an ill-formed term -/

theorem test_wf_split_zero : Instr.wellFormed (.split 0#6) = false := by decide
theorem test_wf_split_33 : Instr.wellFormed (.split 33#6) = false := by decide
theorem test_wf_merge_zero : Instr.wellFormed (.merge 0#6) = false := by decide
theorem test_wf_merge_33 : Instr.wellFormed (.merge 33#6) = false := by decide
theorem test_wf_limits : Instr.WellFormed (.split 1#6) ∧ Instr.WellFormed (.merge 32#6) := by decide

/-! ## Words: `OP`, `Z`, `SEL` written out from 30_encoding.md rules R91 and R93 -/

theorem test_word_permIp : Claims.HasWord .permIp 0b0001_000000_000000#16 := by unfold Claims.HasWord; decide
theorem test_word_permFp : Claims.HasWord .permFp 0b0001_000000_000001#16 := by unfold Claims.HasWord; decide
theorem test_word_permPc1 : Claims.HasWord .permPc1 0b0001_000000_000010#16 := by unfold Claims.HasWord; decide
theorem test_word_permPc2 : Claims.HasWord .permPc2 0b0001_000000_000011#16 := by unfold Claims.HasWord; decide
theorem test_word_permE : Claims.HasWord .permE 0b0001_000000_000100#16 := by unfold Claims.HasWord; decide
theorem test_word_permP : Claims.HasWord .permP 0b0001_000000_000101#16 := by unfold Claims.HasWord; decide
theorem test_word_split : Claims.HasWord (.split 28#6) 0b0010_000000_011100#16 := by unfold Claims.HasWord; decide
theorem test_word_merge : Claims.HasWord (.merge 32#6) 0b0011_000000_100000#16 := by unfold Claims.HasWord; decide
theorem test_word_substS1 : Claims.HasWord .substS1 0b0100_000000_000000#16 := by unfold Claims.HasWord; decide
theorem test_word_substS2 : Claims.HasWord .substS2 0b0100_000000_000001#16 := by unfold Claims.HasWord; decide
theorem test_word_substS3 : Claims.HasWord .substS3 0b0100_000000_000010#16 := by unfold Claims.HasWord; decide
theorem test_word_substS4 : Claims.HasWord .substS4 0b0100_000000_000011#16 := by unfold Claims.HasWord; decide
theorem test_word_substS5 : Claims.HasWord .substS5 0b0100_000000_000100#16 := by unfold Claims.HasWord; decide
theorem test_word_substS6 : Claims.HasWord .substS6 0b0100_000000_000101#16 := by unfold Claims.HasWord; decide
theorem test_word_substS7 : Claims.HasWord .substS7 0b0100_000000_000110#16 := by unfold Claims.HasWord; decide
theorem test_word_substS8 : Claims.HasWord .substS8 0b0100_000000_000111#16 := by unfold Claims.HasWord; decide
theorem test_word_rotl1 : Claims.HasWord .rotl1 0b0101_000000_000001#16 := by unfold Claims.HasWord; decide
theorem test_word_rotl2 : Claims.HasWord .rotl2 0b0101_000000_000010#16 := by unfold Claims.HasWord; decide
theorem test_word_new : Claims.HasWord .new 0b0110_000000_000000#16 := by unfold Claims.HasWord; decide
theorem test_word_frnd : Claims.HasWord .frnd 0b0111_000000_000000#16 := by unfold Claims.HasWord; decide
theorem test_word_enc : Claims.HasWord .enc 0b1000_000000_000000#16 := by unfold Claims.HasWord; decide
theorem test_word_dec : Claims.HasWord .dec 0b1001_000000_000000#16 := by unfold Claims.HasWord; decide

/-- 95_test_vectors.md section 2.9: words that are illegal. -/
theorem test_illegal_words : decode 0x0000#16 = .error .unassignedOp ∧ decode 0xFFFF#16 = .error .reservedField ∧
    decode 0x1006#16 = .error .illegalSelector ∧ decode 0x1040#16 = .error .reservedField ∧
    decode 0x2021#16 = .error .illegalSelector ∧ decode 0xA000#16 = .error .unassignedOp := by decide

theorem test_table_word : decodeTableWord 16 0x201C = some Instr.split56 ∧ decodeTableWord 16 0xA000 = none := by decide

/-- Rule R99: the pseudo-instructions are other spellings. -/
theorem test_pseudo : Instr.rotl 2 = some .rotl2 ∧ Instr.rotl 3 = none ∧ Instr.subst 0 = some .substS1 := by decide

/-! ## The boxes as functions of the chunk: 95_test_vectors.md section 2.4 -/

theorem test_box_s1 : boxNumber 0 = 0xE04FD7142EF2BD81_3AA66CCB59950378_4F1CE882D46921B7_F5CB937E3AA0560D := by decide +kernel
theorem test_box_s2 : boxNumber 1 = 0xF31D84E76FB2384E_9C7021DAC6095BA5_0DE87AB1A34FD412_5B86C76C90352EF9 := by decide +kernel
theorem test_box_s3 : boxNumber 2 = 0xAD0790E96334F65A_12D8C57EBC4B2F81_D16A4D9086F93807_B41F2EC35BA5E27C := by decide +kernel
theorem test_box_s4 : boxNumber 3 = 0x7DD8EB35066F90A3_1427825CB1CA4EF9_A36F9006CAB17DD8_F91435EB5C27824E := by decide +kernel
theorem test_box_s5 : boxNumber 4 = 0x2ECB421C74A7BD61_85503FFAD309E896_4B281CB7A1DE728D_F69FC0596A3405E3 := by decide +kernel
theorem test_box_s6 : boxNumber 5 = 0xCA1FA4F2972C6985_06D13D4EE07B53B8_94E3F25C2985CF3A_7B0E41A716D0B86D := by decide +kernel
theorem test_box_s7 : boxNumber 6 = 0x4DB02BE7F40981DA_3EC3957C52AF6816_164BBDD8C1347AE7_A9F5608F0E52932C := by decide +kernel
theorem test_box_s8 : boxNumber 7 = 0xD12F8D486AF3B714_AC9536EB500EC972_72B14E1794CAE82D_0F6CA9D0F335568B := by decide +kernel

/-! ## Steps -/

/-- 95_test_vectors.md section 2.2; `B` is not read. -/
theorem test_step_permIp : answerTo 0x1000#16 0x123456789ABCDEF#64 0xFFFFFFFFFFFFFFFF#64 State.reset = okay 0xCC00CCFFF0AAF0AA#64 0x0#64 := by decide +kernel
/-- 95_test_vectors.md section 2.2. -/
theorem test_step_permFp : answerTo 0x1001#16 0x123456789ABCDEF#64 0x0#64 State.reset = okay 0xFF330FAA00330FAA#64 0x0#64 := by decide +kernel
/-- 95_test_vectors.md V2, the document's own numbers. -/
theorem test_step_permPc1 : answerTo 0x1002#16 0xFFFFFFFFFFFFFB2D#64 0x0#64 State.reset = okay 0x7F7FFF77FBFFFF#64 0x0#64 := by decide +kernel
/-- 95_test_vectors.md V3, the document's own numbers. -/
theorem test_step_permPc2 : answerTo 0x1003#16 0x7F7FFF77FBFFFF#64 0x0#64 State.reset = okay 0xF7FFFFFFFFFD#64 0x0#64 := by decide +kernel
/-- 95_test_vectors.md section 2.2. -/
theorem test_step_permE : answerTo 0x1004#16 0x1234567#64 0x0#64 State.reset = okay 0x802906A0AB0E#64 0x0#64 := by decide +kernel
/-- 95_test_vectors.md section 2.2. -/
theorem test_step_permP : answerTo 0x1005#16 0x1234567#64 0x0#64 State.reset = okay 0x80566C2C#64 0x0#64 := by decide +kernel
/-- 95_test_vectors.md section 2.3, two chunks of a 12-bit field. -/
theorem test_step_split : answerTo 0x2006#16 0x611#64 0xFFFFFFFFFFFFFFFF#64 State.reset = okay 0x18#64 0x11#64 := by decide +kernel
/-- 95_test_vectors.md section 2.3, two S-box outputs joined. -/
theorem test_step_merge : answerTo 0x3004#16 0xA#64 0x4#64 State.reset = okay 0xA4#64 0x0#64 := by decide +kernel
/-- 95_test_vectors.md section 2.4, the row of chunk 0x3E. -/
theorem test_step_substS1 : answerTo 0x4000#16 0x3E#64 0x0#64 State.reset = okay 0x0#64 0x0#64 := by decide +kernel
/-- 95_test_vectors.md section 2.4, the row of chunk 0x3E. -/
theorem test_step_substS2 : answerTo 0x4001#16 0x3E#64 0x0#64 State.reset = okay 0xF#64 0x0#64 := by decide +kernel
/-- 95_test_vectors.md section 2.4, the row of chunk 0x3E. -/
theorem test_step_substS3 : answerTo 0x4002#16 0x3E#64 0x0#64 State.reset = okay 0x7#64 0x0#64 := by decide +kernel
/-- 95_test_vectors.md section 2.4, the row of chunk 0x3E. -/
theorem test_step_substS4 : answerTo 0x4003#16 0x3E#64 0x0#64 State.reset = okay 0x4#64 0x0#64 := by decide +kernel
/-- 95_test_vectors.md section 2.4, the row of chunk 0x3E. -/
theorem test_step_substS5 : answerTo 0x4004#16 0x3E#64 0x0#64 State.reset = okay 0xE#64 0x0#64 := by decide +kernel
/-- 95_test_vectors.md section 2.4, the row of chunk 0x3E. -/
theorem test_step_substS6 : answerTo 0x4005#16 0x3E#64 0x0#64 State.reset = okay 0x6#64 0x0#64 := by decide +kernel
/-- 95_test_vectors.md section 2.4, the row of chunk 0x3E. -/
theorem test_step_substS7 : answerTo 0x4006#16 0x3E#64 0x0#64 State.reset = okay 0x2#64 0x0#64 := by decide +kernel
/-- 95_test_vectors.md section 2.4, the row of chunk 0x3E. -/
theorem test_step_substS8 : answerTo 0x4007#16 0x3E#64 0x0#64 State.reset = okay 0x8#64 0x0#64 := by decide +kernel
/-- 95_test_vectors.md section 2.5. -/
theorem test_step_rotl1 : answerTo 0x5001#16 0xCE682B8#64 0x0#64 State.reset = okay 0x9CD0571#64 0x0#64 := by decide +kernel
/-- 95_test_vectors.md V1, the document's own numbers. -/
theorem test_step_rotl2 : answerTo 0x5002#16 0xCE682B8#64 0x0#64 State.reset = okay 0x39A0AE3#64 0x0#64 := by decide +kernel
/-- 95_test_vectors.md section 2.8 row 11. -/
theorem test_step_new : answerTo 0x6000#16 0xFFFFFFFFFFFFFB2D#64 0xFFFFFFFFFFFFFFFF#64 State.reset = okay 0x0#64 0x0#64 := by decide +kernel
/-- 95_test_vectors.md section 2.6, round 0 of V40. -/
theorem test_step_frnd : answerTo 0x7000#16 0x10C4E870#64 0xEEFFBFEFFEFF#64 State.reset = okay 0x35E213D0#64 0x0#64 := by decide +kernel
/-- 95_test_vectors.md V42, the published DES example. -/
theorem test_step_enc : answerTo 0x8000#16 0x123456789ABCDEF#64 0x0#64 (keyed 0x133457799BBCDFF1#64) = okay 0x85E813540F0AB405#64 0x0#64 := by decide +kernel
/-- 95_test_vectors.md V43. -/
theorem test_step_dec : answerTo 0x9000#16 0x7048860F3A38#64 0x0#64 (keyed 0xFFFFFFFFFFFFFB2D#64) = okay 0xC740F1E740B473C0#64 0x0#64 := by decide +kernel
/-- 95_test_vectors.md section 2.8 row 1. -/
theorem test_step_enc_without_key : answerTo 0x8000#16 0x7048860F3A38#64 0x0#64 State.reset = failed .nokey := by decide +kernel
/-- 95_test_vectors.md section 2.8 row 2. -/
theorem test_step_dec_without_key : answerTo 0x9000#16 0x7048860F3A38#64 0x0#64 State.reset = failed .nokey := by decide +kernel
/-- 95_test_vectors.md section 2.3: the right operand is over-wide. -/
theorem test_step_merge_wide : answerTo 0x3020#16 0x0#64 0x100000000#64 State.reset = failed .width := by decide +kernel
/-- 95_test_vectors.md section 2.3: the smallest over-wide value. -/
theorem test_step_split_wide : answerTo 0x2001#16 0x4#64 0x0#64 State.reset = failed .width := by decide +kernel
/-- 95_test_vectors.md section 2.4: the low six bits are 0 and the chunk is not truncated. -/
theorem test_step_substS1_wide : answerTo 0x4000#16 0x100000000#64 0x0#64 State.reset = failed .width := by decide +kernel
/-- 95_test_vectors.md section 2.5. -/
theorem test_step_rotl2_wide : answerTo 0x5002#16 0xFFFFFFFFFFFFFFFF#64 0x0#64 State.reset = failed .width := by decide +kernel
/-- 95_test_vectors.md section 2.8 row 4. -/
theorem test_step_permPc2_wide : answerTo 0x1003#16 0x100000000000000#64 0x0#64 State.reset = failed .width := by decide +kernel
/-- 95_test_vectors.md section 2.6. -/
theorem test_step_frnd_wide : answerTo 0x7000#16 0x0#64 0x1000000000000#64 State.reset = failed .width := by decide +kernel
/-- 95_test_vectors.md section 2.8 row 9: ILLCMD wins over NOKEY. -/
theorem test_step_reserved_field : answerTo 0x8040#16 0x7048860F3A38#64 0x0#64 State.reset = failed .illcmd := by decide +kernel
/-- 95_test_vectors.md section 2.8 row 10: ILLCMD wins over WIDTH. -/
theorem test_step_illegal_wide : answerTo 0x3FDC#16 0x10000000#64 0x0#64 State.reset = failed .illcmd := by decide +kernel
/-- 95_test_vectors.md section 2.3: half width 0 is no command. -/
theorem test_step_split_zero : answerTo 0x2000#16 0x0#64 0x0#64 State.reset = failed .illcmd := by decide +kernel

/-- 95_test_vectors.md V10: two subkeys of the document's key. -/
theorem test_new_store : ((nextState (transact ⟨0x6000#16, 0xFFFFFFFFFFFFFB2D#64, 0#64⟩ State.reset)).map
    fun t => (t.ks[3], t.ks[12], t.kv, t.ph)) =
      some (some 0xFDF3FFFF7FFE#48, some 0x7FBFFEFFFF7F#48, true, .idle) := by decide +kernel

/-- 95_test_vectors.md section 2.8 row 6: the sticky bits are kept and `STAT` shows them. -/
theorem test_sticky : ((nextState (transact ⟨0x0000#16, 0#64, 0#64⟩ { State.reset with flt := 0b1001#4 })).map
    fun t => (t.flt, t.stat)) = some (0b1101#4, 0b110100#6) := by decide +kernel

/-- 95_test_vectors.md section 2.8 row 13: a fault with `KV` = 1 changes neither `KS` nor `KV`. -/
theorem test_fault_keeps_key : ((nextState (transact ⟨0x301C#16, 0x10000000#64, 0#64⟩ (keyed 0#64))).map
    fun t => (t.ks[0], t.kv, t.flt)) = some (some 0#48, true, 0b0001#4) := by decide +kernel

/-- 10_state.md rule R26 and V10: the clock cycle of acceptance leads to (`KEYGEN`, 0) with `CD_0`. -/
theorem test_tick_new : ((nextState (tick .one (port 0x6000#16 0xFFFFFFFFFFFFFB2D#64 0#64))).map
    fun t => (t.ph, t.rc, t.c, t.d)) = some (.keygen, 0, 0x7F7FFF7#28, 0x7FBFFFF#28) := by decide +kernel

/-- V10: step K(0). -/
theorem test_step_k0 : ((nextState (step { State.reset with ph := .keygen, c := 0x7F7FFF7#28, d := 0x7FBFFFF#28 })).map
    fun t => (t.rc, t.c, t.d, t.ks[0])) =
      some (1, 0xFEFFFEE#28, 0xFF7FFFE#28, some 0xEEFFBFEFFEFF#48) := by decide +kernel

/-- V40: step C(0). -/
theorem test_step_c0 : ((nextState (step { keyed 0xFFFFFFFFFFFFFB2D#64 with
      ph := .crypt, l := 0x0CC43020#32, r := 0x10C4E870#32 })).map fun t => (t.rc, t.l, t.r)) =
      some (1, 0x10C4E870#32, 0x392623F0#32) := by decide +kernel

/-- V40: step Cend. -/
theorem test_step_cend : ((nextState (step { keyed 0#64 with
      ph := .crypt, rc := 16, l := 0xCF903651#32, r := 0x48E68E55#32 })).map fun t => (t.ph, t.l, t.r, t.rsp)) =
      some (.idle, 0#32, 0#32, okay 0x839C9DC42B18D3B4#64 0#64) := by decide +kernel

/-- 70_reset_and_hazards.md rule R252: reset in the middle of a command. -/
theorem test_reset_in_crypt : ((nextState (step { keyed 0#64 with
      ph := .crypt, rc := 5, l := 1#32, inputs := [.reset] })).map fun t => decide (t = State.reset)) = some true := by
  decide +kernel

/-- The first instruction after reset is the word that is placed. -/
theorem test_fetch_word : ((nextState (step (State.reset.withFetchWord 16 0x4000))).bind State.rsp) = okay 14#64 0#64 := by
  decide +kernel

/-! ## Witnesses: for each statement with hypotheses, a state and operands that meet them, at the ends of each range -/

theorem witness_permIpAndFp :
    (port 0x1000#16 0xFFFFFFFFFFFFFFFF#64 0#64).opA.toNat < 2 ^ 64 ∧ (port 0x1000#16 1#64 0#64).opA = 1#64 ∧
    (port 0x1001#16 0xCC00CCFFF0AAF0AA#64 0#64).opA = 0xCC00CCFFF0AAF0AA#64 ∧
    Claims.Completes .permIp (port 0x1000#16 0x0123456789ABCDEF#64 0#64) 0xCC00CCFFF0AAF0AA#64 0#64 ∧
    Claims.Completes .permFp (port 0x1001#16 0xCC00CCFFF0AAF0AA#64 0#64) 0x0123456789ABCDEF#64 0#64 :=
  ⟨by decide, rfl, rfl, by
    have h : permute (port 0x1000#16 0x0123456789ABCDEF#64 0#64).opA 64 Rom.ip = .ok 0xCC00CCFFF0AAF0AA#64 := by
      decide +kernel
    simp only [Claims.Completes, exec, execPermIp, permCommand, h, answerOne, State.respond], by
    have h : permute (port 0x1001#16 0xCC00CCFFF0AAF0AA#64 0#64).opA 64 Rom.fp = .ok 0x0123456789ABCDEF#64 := by
      decide +kernel
    simp only [Claims.Completes, exec, execPermFp, permCommand, h, answerOne, State.respond]⟩

theorem witness_permPc1AndPc2 :
    (port 0x1002#16 1#64 0#64).opA.toNat < 2 ^ 64 ∧
    (port 0x1002#16 0xFEFEFEFEFEFEFEFE#64 0#64).opA = (port 0x1002#16 0xFFFFFFFFFFFFFFFF#64 0#64).opA &&& 0xFEFEFEFEFEFEFEFE#64 ∧
    Claims.Completes .permPc1 (port 0x1002#16 0xFFFFFFFFFFFFFFFF#64 0#64) 0xFFFFFFFFFFFFFF#64 0#64 ∧
    (port 0x1003#16 0xFFFFFFFFFFFFFF#64 0#64).opA.toNat < 2 ^ 56 ∧
    2 ^ 56 ≤ (port 0x1003#16 0x100000000000000#64 0#64).opA.toNat ∧
    (port 0x1003#16 0xFF7FBB7FDBDFFB#64 0#64).opA = (port 0x1003#16 0xFFFFFFFFFFFFFF#64 0#64).opA &&& 0xFF7FBB7FDBDFFB#64 ∧
    Claims.Completes .permPc2 (port 0x1003#16 0xFFFFFFFFFFFFFF#64 0#64) 0xFFFFFFFFFFFF#64 0#64 :=
  ⟨by decide, by decide, by
    have h : permute (port 0x1002#16 0xFFFFFFFFFFFFFFFF#64 0#64).opA 64 Rom.pc1 = .ok 0xFFFFFFFFFFFFFF#64 := by
      decide +kernel
    simp only [Claims.Completes, exec, execPermPc1, permCommand, h, answerOne, State.respond], by decide, by decide,
    by decide, by
    have h : permute (port 0x1003#16 0xFFFFFFFFFFFFFF#64 0#64).opA 56 Rom.pc2 = .ok 0xFFFFFFFFFFFF#64 := by
      decide +kernel
    simp only [Claims.Completes, exec, execPermPc2, permCommand, h, answerOne, State.respond]⟩

theorem witness_permEAndP :
    (port 0x1004#16 0xFFFFFFFF#64 0#64).opA.toNat < 2 ^ 32 ∧ 2 ^ 32 ≤ (port 0x1004#16 0x100000000#64 0#64).opA.toNat ∧
    (port 0x1005#16 0xFFFFFFFF#64 0#64).opA.toNat < 2 ^ 32 ∧ 2 ^ 32 ≤ (port 0x1005#16 0x100000000#64 0#64).opA.toNat ∧
    (port 0x1005#16 0x5C82B597#64 0#64).opA = 0x5C82B597#64 := by decide

/-- Both ends of the legal half widths, both ends of the operand's range, and the two illegal half widths beside them. -/
theorem witness_splitHalves :
    legalHalfWidth 1#6 ∧ legalHalfWidth 32#6 ∧ ¬ legalHalfWidth 0#6 ∧ ¬ legalHalfWidth 33#6 ∧
    (port 0x2001#16 3#64 0#64).opA.toNat < 2 ^ (2 * (1#6).toNat) ∧
    2 ^ (2 * (1#6).toNat) ≤ (port 0x2001#16 4#64 0#64).opA.toNat ∧
    (port 0x2020#16 0xFFFFFFFFFFFFFFFF#64 0#64).opA.toNat < 2 ^ (2 * (32#6).toNat) ∧
    Claims.Presented (port (0x2000#16 + (0#6).setWidth 16) 0#64 0#64) ⟨0x2000#16 + (0#6).setWidth 16, 0#64, 0#64⟩ [] ∧
    Claims.Presented (port (0x2000#16 + (33#6).setWidth 16) 0#64 0#64) ⟨0x2000#16 + (33#6).setWidth 16, 0#64, 0#64⟩ [] ∧
    (port 0x201C#16 0x7F7FFF77FBFFFF#64 0#64).opA = 0x7F7FFF77FBFFFF#64 := by unfold Claims.Presented; decide

theorem witness_mergeHalves :
    legalHalfWidth 1#6 ∧ legalHalfWidth 32#6 ∧
    (port 0x3020#16 0xFFFFFFFF#64 0xFFFFFFFF#64).opA.toNat < 2 ^ (32#6).toNat ∧
    (port 0x3020#16 0xFFFFFFFF#64 0xFFFFFFFF#64).opB.toNat < 2 ^ (32#6).toNat ∧
    2 ^ (1#6).toNat ≤ (port 0x3001#16 2#64 0#64).opA.toNat ∧ 2 ^ (1#6).toNat ≤ (port 0x3001#16 0#64 2#64).opB.toNat ∧
    (port 0x301C#16 0xFEFFFEE#64 0xFF7FFFE#64).opA = 0xFEFFFEE#64 ∧
    (port 0x301C#16 0xFEFFFEE#64 0xFF7FFFE#64).opB = 0xFF7FFFE#64 := by decide

theorem witness_splitMergeRoundTrip :
    legalHalfWidth 28#6 ∧ (port 0x201C#16 0xFFFFFFFFFFFFFF#64 0#64).opA.toNat < 2 ^ (2 * (28#6).toNat) ∧
    (port 0x301C#16 0xFFFFFFF#64 0xFFFFFFF#64).opA = 0xFFFFFFF#64 ∧
    (port 0x301C#16 0xFFFFFFF#64 0xFFFFFFF#64).opB = 0xFFFFFFF#64 ∧
    (port 0x301C#16 0xFFFFFFF#64 0xFFFFFFF#64).opA.toNat < 2 ^ (28#6).toNat ∧
    (port 0x301C#16 0xFFFFFFF#64 0xFFFFFFF#64).opB.toNat < 2 ^ (28#6).toNat := by decide

theorem witness_substLookups :
    (port 0x4000#16 63#64 0#64).opA.toNat < 64 ∧ 64 ≤ (port 0x4000#16 64#64 0#64).opA.toNat ∧
    (port 0x4007#16 0x1B#64 0#64).opA = BitVec.ofNat 64 0x1B := by decide

theorem witness_rotateLeft :
    (port 0x5001#16 0xFFFFFFF#64 0#64).opA.toNat < 2 ^ 28 ∧ 2 ^ 28 ≤ (port 0x5001#16 0x10000000#64 0#64).opA.toNat ∧
    (0#6 ≠ 1#6 ∧ 0#6 ≠ 2#6) ∧ (3#6 ≠ 1#6 ∧ 3#6 ≠ 2#6) := by decide

/-- MERGE 28 of the halves of 95_test_vectors.md P2, and the rotation of 0xC000000 by 1, by 1 again, and by 2. -/
theorem witness_primitiveInferences :
    legalHalfWidth 28#6 ∧ (port 0x301C#16 0xFEFFFEE#64 0xFF7FFFE#64).opA.toNat < 2 ^ (28#6).toNat ∧
    (port 0x301C#16 0xFEFFFEE#64 0xFF7FFFE#64).opB.toNat < 2 ^ (28#6).toNat ∧
    (port 0x201C#16 0xFEFFFEEFF7FFFE#64 0#64).opA = 0xFEFFFEEFF7FFFE#64 ∧
    (port 0x5001#16 0xC000000#64 0#64).opA.toNat < 2 ^ 28 ∧
    (port 0x5002#16 0xC000000#64 0#64).opA = (port 0x5001#16 0xC000000#64 0#64).opA ∧
    Claims.Completes .rotl1 (port 0x5001#16 0xC000000#64 0#64) 0x8000001#64 0#64 ∧
    (port 0x5001#16 0x8000001#64 0#64).opA = 0x8000001#64 ∧
    Claims.Completes .rotl1 (port 0x5001#16 0x8000001#64 0#64) 3#64 0#64 :=
  ⟨by decide, by decide, by decide, rfl, by decide, rfl, by
    have h : rotateLeft (port 0x5001#16 0xC000000#64 0#64).opA 1 = .ok 0x8000001#64 := by decide +kernel
    simp only [Claims.Completes, exec, execRotl1, rotlCommand, h, answerOne, State.respond], rfl, by
    have h : rotateLeft (port 0x5001#16 0x8000001#64 0#64).opA 1 = .ok 3#64 := by decide +kernel
    simp only [Claims.Completes, exec, execRotl1, rotlCommand, h, answerOne, State.respond]⟩

/-- The document's key and the same key with all eight parity bits flipped (95_test_vectors.md V44). -/
theorem witness_parityBitsIgnored :
    0xFFFFFFFFFFFFFB2D#64 &&& 0xFEFEFEFEFEFEFEFE#64 = 0xFEFEFEFEFEFEFA2C#64 &&& 0xFEFEFEFEFEFEFEFE#64 ∧
    State.reset.ph = .idle := by decide

/-- Between NEW and ENC: a primitive, an ENC and an illegal word. -/
theorem witness_scheduleLastsUntilNextNew :
    State.reset.ph = .idle ∧
    ∀ cmd ∈ [(⟨0x1000#16, 5#64, 0#64⟩ : Command), ⟨0x8000#16, 7#64, 0#64⟩, ⟨0x6001#16, 0#64, 0#64⟩],
      decode cmd.cw ≠ .ok .new := by decide

theorem witness_frnd :
    (port 0x7000#16 0xFFFFFFFF#64 0xFFFFFFFFFFFF#64).opA.toNat < 2 ^ 32 ∧
    (port 0x7000#16 0xFFFFFFFF#64 0xFFFFFFFFFFFF#64).opB.toNat < 2 ^ 48 ∧
    2 ^ 32 ≤ (port 0x7000#16 0x100000000#64 0#64).opA.toNat ∧
    2 ^ 48 ≤ (port 0x7000#16 0#64 0x1000000000000#64).opB.toNat ∧
    (0xFFFFFFFF#64).toNat < 2 ^ 32 ∧ (0xFFFFFFFFFFFF#64).toNat < 2 ^ 48 := by decide

/-- Two different operands with one mixed value (42_round_function.md rule R174). -/
theorem witness_roundFunctionMixesOnly :
    permuteBits 48 Rom.e 0xFFFFFFFF#32 ^^^ 0#48 = permuteBits 48 Rom.e 0#32 ^^^ 0xFFFFFFFFFFFF#48 := by decide +kernel

/-- A state with a key and one without, and both in `IDLE`. -/
theorem witness_encDec :
    (keyed 0#64).kv = true ∧ (keyed 0#64).ph = .idle ∧ State.reset.kv = false ∧ State.reset.ph = .idle := by decide

theorem witness_encoding :
    Instr.WellFormed (.split 1#6) ∧ Instr.WellFormed (.merge 32#6) ∧ Instr.WellFormed .dec ∧
    decode 0x2020#16 = .ok (.split 32#6) := by decide

theorem witness_legalAndIllegalWords :
    (0x2021#16).toNat ∉ Claims.legalWords ∧ (0x9000#16).toNat ∈ Claims.legalWords ∧
    Claims.Presented (port 0x2021#16 0#64 0#64) ⟨0x2021#16, 0#64, 0#64⟩ [] := by unfold Claims.Presented; decide

theorem witness_widthConditions :
    Instr.WellFormed .permE ∧ exec .permE (port 0x1004#16 0x100000000#64 0#64) =
      .next (Claims.faulted (port 0x1004#16 0x100000000#64 0#64) .width) ∧
    (Claims.faulted (port 0x1004#16 0x100000000#64 0#64) .width).rsp = failed .width :=
  ⟨by decide, by rw [exec, execPermE, permCommand, permute_of_wide tableOk_e (by decide)]; rfl, rfl⟩

theorem witness_tableFault :
    (∃ p ∈ [0], p < 1 ∨ 4 < p) ∧ (∃ p ∈ [5], p < 1 ∨ 4 < p) ∧ (∃ p ∈ [5], p < 1 ∨ 4 < p) ∧ 2 ^ 4 ≤ (16#64).toNat ∧
    (∃ t rsp, exec .rotl1 (port 0x5001#16 0#64 0#64) = .next t ∧ t.rsp = some rsp) ∧
    ∃ t rsp, step (port 0x5001#16 0#64 0#64) = .next t ∧ t.rsp = some rsp :=
  ⟨by decide, by decide, by decide, by decide, ⟨_, _, rfl, rfl⟩, ⟨_, _, rfl, rfl⟩⟩

theorem witness_illegalCommandFault :
    Claims.Presented (port 0xA000#16 1#64 2#64) ⟨0xA000#16, 1#64, 2#64⟩ [] ∧ (∀ i : Instr, decode 0xA000#16 ≠ .ok i) ∧
    Claims.Presented (port 0x5001#16 0#64 0#64) ⟨0x5001#16, 0#64, 0#64⟩ [] ∧ decode 0x5001#16 = .ok .rotl1 ∧
    ∃ t rsp, step (port 0x5001#16 0#64 0#64) = .next t ∧ t.rsp = some rsp :=
  ⟨⟨rfl, rfl⟩, (fun i h => by
    have e : decode 0xA000#16 = .error .unassignedOp := by decide
    rw [e] at h
    cases h), ⟨rfl, rfl⟩, by decide, ⟨_, _, rfl, rfl⟩⟩

theorem witness_noKeyFault :
    ∃ t rsp, exec .enc State.reset = .next t ∧ t.rsp = some rsp ∧ rsp.err = .fault .nokey := ⟨_, _, rfl, rfl, rfl⟩

/-- NOKEY in `IDLE` as a presented command, the premise of the statements on fault entry, on priority and on repeating. -/
theorem witness_faultEntry :
    Claims.Presented (port 0x8000#16 7#64 0#64) ⟨0x8000#16, 7#64, 0#64⟩ [] ∧ decode 0x8000#16 = .ok .enc ∧
    (port 0x8000#16 7#64 0#64).kv = false ∧ State.reset.ph = .idle ∧
    ∃ t, step (port 0x8000#16 7#64 0#64) = .next t ∧ transact ⟨0x8000#16, 7#64, 0#64⟩ State.reset = .next t ∧
      t.rsp = failed .nokey ∧ t.flt.getLsbD 3 = true :=
  ⟨⟨rfl, rfl⟩, by decide, rfl, rfl, ⟨_, rfl, rfl, rfl, by decide⟩⟩

theorem witness_faultPriority :
    2 ^ 32 ≤ (port 0x7000#16 0x100000000#64 0x1000000000000#64).opA.toNat ∧
    2 ^ 48 ≤ (port 0x7000#16 0x100000000#64 0x1000000000000#64).opB.toNat ∧ legalHalfWidth 28#6 ∧
    2 ^ (28#6).toNat ≤ (port 0x301C#16 0x10000000#64 0x10000000#64).opA.toNat ∧
    2 ^ (28#6).toNat ≤ (port 0x301C#16 0x10000000#64 0x10000000#64).opB.toNat := by decide

/-- A set bit of `FLT`, a cycle without reset and one with it. -/
theorem witness_faultsStick :
    ({ State.reset with flt := 0b1000#4 }).now ≠ .reset ∧
    (∃ t, step { State.reset with flt := 0b1000#4 } = .next t) ∧
    ({ State.reset with flt := 0b1000#4 }).flt.getLsbD 3 = true ∧
    ({ State.reset with flt := 0b1000#4, inputs := [.reset] }).now = .reset :=
  ⟨by decide, ⟨_, rfl⟩, by decide, by decide⟩

theorem witness_resetAbandonsCommand :
    ({ keyed 0#64 with ph := .crypt, rc := 5, inputs := [.reset, .quiet] }).inputs = .reset :: [.quiet] := rfl

/-- A state of phase `KEYGEN` at round 0. -/
def inKeygen (key : Word64) : State :=
  { State.reset with
    ph := .keygen
    c := (splitBits 28 (permuteBits 56 Rom.pc1 key)).1
    d := (splitBits 28 (permuteBits 56 Rom.pc1 key)).2 }

/-- A state of phase `CRYPT` at round 0, decrypting. -/
def inCrypt (key block : Word64) : State :=
  { keyed key with
    ph := .crypt
    dir := true
    l := (initialHalves block).1
    r := (initialHalves block).2 }

/-- The invariant is met in each of the three phases, and a step and a clock cycle lead on from there. -/
theorem witness_invariant_idle :
    State.reset.Inv ∧ (keyed 5#64).Inv ∧ (∃ t, step State.reset = .next t) ∧ ∃ t, tick .four State.reset = .next t :=
  ⟨⟨by decide, rfl, rfl, rfl, rfl, rfl, rfl, (fun h => by cases h), fun _ => rfl⟩,
    ⟨by decide, rfl, rfl, rfl, rfl, rfl, rfl, fun _ => ⟨5#64, rfl⟩, fun h => by cases h⟩, ⟨_, rfl⟩, ⟨_, rfl⟩⟩

theorem witness_invariant_keygen :
    (inKeygen 5#64).Inv ∧ (∃ t, step (inKeygen 5#64) = .next t) ∧ ∃ t, tick .four (inKeygen 5#64) = .next t :=
  ⟨⟨by decide, rfl, rfl, rfl, rfl, 5#64, mergeBits_splitBits (hw := 28) _, by decide⟩, ⟨_, rfl⟩, ⟨_, rfl⟩⟩

theorem witness_invariant_crypt :
    (inCrypt 5#64 9#64).Inv ∧ (∃ t, step (inCrypt 5#64 9#64) = .next t) ∧
    ∃ t, tick .four (inCrypt 5#64 9#64) = .next t :=
  ⟨⟨by decide, rfl, rfl, rfl, ⟨5#64, rfl⟩, 9#64, rfl⟩, ⟨_, rfl⟩, ⟨_, rfl⟩⟩

theorem witness_stepRunsDecodedInstruction :
    Claims.Presented (port 0x9000#16 7#64 0#64) ⟨0x9000#16, 7#64, 0#64⟩ [] ∧ decode 0x9000#16 = .ok .dec :=
  ⟨⟨rfl, rfl⟩, by decide⟩

theorem witness_waiting :
    State.reset.ph = .idle ∧ State.reset.now = .quiet ∧
    ({ port 0x9000#16 7#64 0#64 with ph := .keygen }).ph ≠ .idle ∧
    ({ port 0x9000#16 7#64 0#64 with ph := .keygen }).inputs = .command ⟨0x9000#16, 7#64, 0#64⟩ :: [] :=
  ⟨rfl, by decide, by decide, rfl⟩

/-- A command in progress, at the first round, the last round and the end; a host that drives nothing, then a command, and
`rst` only after the last cycle, and one that asserts `rst` in the last cycle. -/
theorem witness_commandInProgress :
    ({ State.reset with ph := .keygen }).ph ≠ .idle ∧ Claims.cyclesLeft .one 0 = 17 ∧ Claims.cyclesLeft .four 1 = 5 ∧
    Claims.cyclesLeft .four 16 = 1 ∧ Claims.NoResetFor 17 [] ∧
    Claims.NoResetFor 17 [.quiet, .quiet, .command ⟨0x9000#16, 7#64, 0#64⟩, .reset] ∧
    Claims.NoResetFor 1 [.quiet, .reset] ∧ ¬ Claims.NoResetFor 2 [.quiet, .reset] ∧ Claims.NoResetFor 0 [.reset] ∧
    ({ State.reset with ph := .keygen }).rc.val = (0 : Fin 16).val ∧
    ({ State.reset with ph := .keygen, rc := 15 }).rc.val = (15 : Fin 16).val ∧
    ({ State.reset with ph := .keygen, rc := 16 }).rc.val = 16 := by decide

theorem witness_keygenSteps :
    Claims.Presented (port 0x6000#16 5#64 0#64) ⟨0x6000#16, 5#64, 0#64⟩ [] ∧ decode 0x6000#16 = .ok .new ∧
    ({ State.reset with ph := .keygen, inputs := [.quiet, .reset] }).now ≠ .reset ∧
    Claims.NoResetFor (1 + 16 / Config.Unroll.sixteen.rounds) [.quiet, .quiet, .reset] :=
  ⟨⟨rfl, rfl⟩, by decide, by decide, by decide⟩

theorem witness_cryptSteps :
    Claims.Presented ((keyed 5#64).present ⟨0x8000#16, 5#64, 0#64⟩) ⟨0x8000#16, 5#64, 0#64⟩ [] ∧
    ((keyed 5#64).present ⟨0x8000#16, 5#64, 0#64⟩).kv = true ∧ decode 0x8000#16 = .ok .enc ∧
    ({ keyed 0#64 with ph := .crypt }).ks[0] = some 0#48 ∧
    ({ keyed 0#64 with ph := .crypt }).rc.val = (0 : Fin 16).val ∧ ({ keyed 0#64 with ph := .crypt }).ph = .crypt ∧
    ({ keyed 0#64 with ph := .crypt, rc := 16 }).rc.val = 16 :=
  ⟨⟨rfl, rfl⟩, rfl, by decide, by decide +kernel, rfl, rfl, rfl⟩

theorem witness_oneCycleCommands :
    Claims.Presented (port 0x4000#16 5#64 0#64) ⟨0x4000#16, 5#64, 0#64⟩ [] ∧ decode 0x4000#16 ≠ .ok .new ∧
    (port 0x4000#16 5#64 0#64).kv = false ∧ decode 0x4000#16 ≠ .ok .enc ∧ decode 0x4000#16 ≠ .ok .dec :=
  ⟨⟨rfl, rfl⟩, by decide, rfl, by decide, by decide⟩

theorem witness_primitivesWriteNoRegister :
    Instr.rotl1 ≠ .new ∧ Instr.rotl1 ≠ .enc ∧ Instr.rotl1 ≠ .dec ∧
    (∃ t, exec .rotl1 (port 0x5001#16 1#64 0#64) = .next t ∧ t.rsp = okay 2#64 0#64) ∧
    ∃ t, exec .rotl1 (port 0x5001#16 0x10000000#64 0#64) = .next t ∧ t.rsp = failed .width :=
  ⟨by decide, by decide, by decide, ⟨_, rfl, by decide +kernel⟩, ⟨_, rfl, by decide +kernel⟩⟩

/-- The first clock cycle of NEW clears `KV`, and the first round step of NEW writes an entry of the key store. -/
theorem witness_onlyNewWritesKeyStore :
    Instr.enc ≠ .new ∧ (∃ t, exec .enc (keyed 5#64) = .next t) ∧
    ((keyed 5#64).present ⟨0x6000#16, 7#64, 0#64⟩).now ≠ .reset ∧
    (∃ t, tick .one ((keyed 5#64).present ⟨0x6000#16, 7#64, 0#64⟩) = .next t ∧ t.kv ≠ (keyed 5#64).kv) ∧
    ({ State.reset with ph := .keygen }).now ≠ .reset ∧
    ∃ t, step { State.reset with ph := .keygen } = .next t ∧ t.ks ≠ State.reset.ks :=
  ⟨by decide, ⟨_, rfl⟩, by decide, ⟨_, rfl, by decide⟩, by decide, ⟨_, rfl, by decide +kernel⟩⟩

/-- Two states that differ in the fault register and hold one key; FRND with a key and without one. -/
theorem witness_responseIsFunction :
    Claims.Presented ((keyed 5#64).present ⟨0x8000#16, 1#64, 0#64⟩) ⟨0x8000#16, 1#64, 0#64⟩ [] ∧
    Claims.Presented ({ keyed 5#64 with flt := 1#4 }.present ⟨0x8000#16, 1#64, 0#64⟩) ⟨0x8000#16, 1#64, 0#64⟩ [] ∧
    (keyed 5#64).kv = ({ keyed 5#64 with flt := 1#4 }).kv ∧ (keyed 5#64).ks = ({ keyed 5#64 with flt := 1#4 }).ks ∧
    Claims.Presented (port 0x7000#16 1#64 2#64) ⟨0x7000#16, 1#64, 2#64⟩ [] ∧
    Claims.Presented ((keyed 5#64).present ⟨0x7000#16, 1#64, 2#64⟩) ⟨0x7000#16, 1#64, 2#64⟩ [] ∧
    ¬ (decode 0x7000#16 = .ok .enc ∨ decode 0x7000#16 = .ok .dec) :=
  ⟨⟨rfl, rfl⟩, ⟨rfl, rfl⟩, rfl, rfl, ⟨rfl, rfl⟩, ⟨rfl, rfl⟩, by decide⟩

theorem witness_unreadOperands :
    State.reset.ph = .idle ∧ (∀ hw : BitVec 6, decode 0x8000#16 ≠ .ok (.merge hw)) ∧ decode 0x8000#16 ≠ .ok .frnd ∧
    ∀ i : Instr, decode 0x0000#16 ≠ .ok i :=
  ⟨rfl, by decide, by decide, fun i h => by
    have e : decode 0x0000#16 = .error .unassignedOp := by decide
    rw [e] at h
    cases h⟩

theorem witness_responseShape : Instr.WellFormed .frnd ∧ ∃ t, exec .frnd (port 0x7000#16 1#64 2#64) = .next t :=
  ⟨by decide, ⟨_, rfl⟩⟩

theorem witness_encDecCommute :
    (keyed 5#64).ph = .idle ∧ decode 0x8000#16 = .ok .enc ∧ decode 0x9000#16 = .ok .dec := by decide

end Sys2Proof.Tests
end

section
/-! The response of a command is a function of the command, its operands and, for ENC and DEC, the key store
(00_scope.md rule R10): two states are run side by side, first through each shared operation, then through `exec`, then
through the step. -/

namespace Sys2Proof.Machine

/-- Both outcomes are next states, and these give one and the same response. -/
def SameResponse (o o' : Host.Outcome State Fault Refusal) : Prop :=
  ∃ t t', o = .next t ∧ o' = .next t' ∧ t.rsp = t'.rsp ∧ t.rsp ≠ none

theorem sameResponse_raise (s s' : State) (e : Cause) : SameResponse (.next (s.raise e)) (.next (s'.raise e)) :=
  ⟨_, _, rfl, rfl, rfl, by simp⟩

theorem sameResponse_respond (s s' : State) (q0 q1 : Word64) :
    SameResponse (.next (s.respond q0 q1)) (.next (s'.respond q0 q1)) :=
  ⟨_, _, rfl, rfl, rfl, by simp⟩

theorem sameResponse_answer (res : Except Cause (Word64 × Word64)) (s s' : State) :
    SameResponse (answer res s) (answer res s') := by
  cases res with
  | ok q => exact sameResponse_respond s s' q.1 q.2
  | error e => exact sameResponse_raise s s' e

theorem sameResponse_answerOne (res : Except Cause Word64) (s s' : State) :
    SameResponse (answerOne res s) (answerOne res s') := by
  cases res with
  | ok q => exact sameResponse_respond s s' q 0#64
  | error e => exact sameResponse_raise s s' e

/-- The port's moving on to the next cycle does not touch the response. -/
theorem SameResponse.accepted {o o' : Host.Outcome State Fault Refusal} (h : SameResponse o o') :
    SameResponse (accepted o) (accepted o') := by
  obtain ⟨t, t', rfl, rfl, hrsp, hne⟩ := h
  exact ⟨t.advance, t'.advance, rfl, rfl, hrsp, hne⟩

section
variable {s s' : State} (hA : s.opA = s'.opA)
include hA

theorem sameResponse_permCommand (w : Nat) (table : List Nat) :
    SameResponse (permCommand w table s) (permCommand w table s') := by
  rw [permCommand, permCommand, hA]
  exact sameResponse_answerOne _ s s'

theorem sameResponse_substCommand (j : Nat) : SameResponse (substCommand j s) (substCommand j s') := by
  rw [substCommand, substCommand, hA]
  exact sameResponse_answerOne _ s s'

theorem sameResponse_rotlCommand (n : Nat) : SameResponse (rotlCommand n s) (rotlCommand n s') := by
  rw [rotlCommand, rotlCommand, hA]
  exact sameResponse_answerOne _ s s'

theorem sameResponse_execSplit (hw : BitVec 6) : SameResponse (execSplit hw s) (execSplit hw s') := by
  rw [execSplit, execSplit, hA]
  split
  · exact sameResponse_answer _ s s'
  · exact sameResponse_raise s s' .illcmd

theorem sameResponse_execMerge (hB : s.opB = s'.opB) (hw : BitVec 6) :
    SameResponse (execMerge hw s) (execMerge hw s') := by
  rw [execMerge, execMerge, hA, hB]
  split
  · exact sameResponse_answerOne _ s s'
  · exact sameResponse_raise s s' .illcmd

theorem sameResponse_execFrnd (hB : s.opB = s'.opB) : SameResponse (execFrnd s) (execFrnd s') := by
  rw [execFrnd, execFrnd, hA, hB]
  exact sameResponse_answerOne _ s s'

/-- ENC and DEC are the two commands that read the key store and its flag. -/
theorem sameResponse_cryptCommand (hkey : s.kv = s'.kv ∧ s.ks = s'.ks) (dir : Bool) :
    SameResponse (cryptCommand dir s) (cryptCommand dir s') := by
  obtain ⟨hkv, hks⟩ := hkey
  have hsched : s.schedule = s'.schedule := by simp only [State.schedule, hks]
  rw [cryptCommand, cryptCommand, hkv, hsched, hA]
  split
  · exact sameResponse_respond s.endCrypt s'.endCrypt _ _
  · exact sameResponse_raise s s' .nokey

theorem sameResponse_exec (hB : s.opB = s'.opB) (i : Instr)
    (hkey : i = .enc ∨ i = .dec → s.kv = s'.kv ∧ s.ks = s'.ks) : SameResponse (exec i s) (exec i s') := by
  cases i with
  | permIp | permFp | permPc1 | permPc2 | permE | permP => exact sameResponse_permCommand hA _ _
  | split hw => exact sameResponse_execSplit hA hw
  | merge hw => exact sameResponse_execMerge hA hB hw
  | substS1 | substS2 | substS3 | substS4 | substS5 | substS6 | substS7 | substS8 =>
    exact sameResponse_substCommand hA _
  | rotl1 | rotl2 => exact sameResponse_rotlCommand hA _
  | new => exact sameResponse_respond _ _ 0#64 0#64
  | frnd => exact sameResponse_execFrnd hA hB
  | enc => exact sameResponse_cryptCommand hA (hkey (.inl rfl)) false
  | dec => exact sameResponse_cryptCommand hA (hkey (.inr rfl)) true

end

theorem step_of_presented {s : State} {cmd : Command} {rest : List PortIn} (h : Claims.Presented s cmd rest) :
    step s = accepted (commandWhole cmd s) := by
  obtain ⟨hidle, hin⟩ := h
  simp [step, commandStep, portCycle, now_of_command hin, busy, hidle]

/-- Settles O55: both states see the operands of the one presented command, and no command but ENC and DEC reads anything
else for its response. -/
theorem responseIsFunctionOfCommandAndKey : Obligations.ResponseIsFunctionOfCommandAndKey := by
  intro s s' cmd rest rest' hs hs' hkey
  have hA : s.opA = s'.opA := (opA_of_command hs.2).trans (opA_of_command hs'.2).symm
  have hB : s.opB = s'.opB := (opB_of_command hs.2).trans (opB_of_command hs'.2).symm
  have hcmd : SameResponse (commandWhole cmd s) (commandWhole cmd s') := by
    unfold commandWhole
    cases hd : decode cmd.cw with
    | error e => exact sameResponse_raise s s' .illcmd
    | ok i => exact sameResponse_exec hA hB i (by simpa [hd] using hkey)
  rw [step_of_presented hs, step_of_presented hs']
  exact hcmd.accepted

end Sys2Proof.Machine
end

section
/-! The status view bit by bit (10_state.md rule R30), and the value of every piece of state after reset (rule R32). -/

namespace Sys2Proof.Machine

/-- `STAT` is `FLT` with `KV` and then `BUSY` put below it. -/
theorem stat_eq_concat (s : State) : s.stat = (s.flt.concat s.kv).concat (busy s) := rfl

theorem stat_getLsbD_zero (s : State) : s.stat.getLsbD 0 = busy s := by
  rw [stat_eq_concat, BitVec.getLsbD_concat_zero]

theorem stat_getLsbD_one (s : State) : s.stat.getLsbD 1 = s.kv := by
  rw [stat_eq_concat, BitVec.getLsbD_concat_succ, BitVec.getLsbD_concat_zero]

theorem stat_getLsbD_add_two (s : State) (i : Nat) : s.stat.getLsbD (i + 2) = s.flt.getLsbD i := by
  rw [stat_eq_concat, BitVec.getLsbD_concat_succ, BitVec.getLsbD_concat_succ]

theorem busy_eq_decide (s : State) : busy s = decide (s.ph ≠ .idle) :=
  Bool.eq_iff_iff.mpr ((busy_iff s).trans decide_eq_true_iff.symm)

/-- Settles O41: `BUSY` and `KV` are the two low bits of `STAT`, and bit `i + 2` is bit `i` of `FLT`. -/
theorem statView : Obligations.StatView := by
  intro s
  have hbusy : s.stat.getLsbD 0 = decide (s.ph ≠ .idle) := (stat_getLsbD_zero s).trans (busy_eq_decide s)
  have hflt := stat_getLsbD_add_two s
  exact ⟨hbusy, stat_getLsbD_one s, hflt 0, hflt 1, hflt 2, hflt 3⟩

theorem stat_eq_zero {s : State} (hph : s.ph = .idle) (hkv : s.kv = false) (hflt : s.flt = 0#4) : s.stat = 0#6 := by
  simp [State.stat, busy, hph, hkv, hflt]

/-- Settles O39: each field by its own lemma; `KS` is the store of no values, and `STAT` is the view of an idle FCE with
`KV` and `FLT` 0. -/
theorem resetState : Obligations.ResetState := by
  have hks (i : Fin 16) : State.reset.ks[i] = none := emptyStore_getElem i i.isLt
  have hstat : State.reset.stat = 0#6 := stat_eq_zero State.reset_ph State.reset_kv State.reset_flt
  exact ⟨State.reset_l, State.reset_r, State.reset_c, State.reset_d, State.reset_dir, State.reset_ph, State.reset_rc,
    State.reset_kv, State.reset_flt, hks, hstat⟩

end Sys2Proof.Machine
end

section
/-! The shapes of the S-boxes (20_memory.md rule R64) and of the rotation schedule (rule R73). The contents of both are
fixed tables, so each shape is a finite check over box, row or round. -/

namespace Sys2Proof.Machine

theorem sbox_length : ∀ j < 8, (Rom.sbox j).length = 64 := by decide

theorem sbox_entry_lt : ∀ j < 8, ∀ x ∈ Rom.sbox j, x < 16 := by decide

theorem sbox_row_perm_range :
    ∀ j < 8, ∀ row < 4, List.Perm (((Rom.sbox j).drop (16 * row)).take 16) (List.range 16) := by decide

theorem rot_eq_ite : ∀ i < 16, Rom.rot i = if i = 0 ∨ i = 1 ∨ i = 8 ∨ i = 15 then 1 else 2 := by decide

/-- Settles O60: a row of a box is a permutation of 0 to 15, so it holds each of these numbers. -/
theorem sboxAndRotationShapes : Obligations.SboxAndRotationShapes := by
  refine ⟨fun j hj => ⟨sbox_length j hj, sbox_entry_lt j hj, ?_⟩, rot_eq_ite, rfl⟩
  intro row hrow v hv
  exact (sbox_row_perm_range j hj row hrow).mem_iff.mpr (List.mem_range.mpr hv)

end Sys2Proof.Machine
end

section
/-! Which words the decoder accepts (30_encoding.md rules R91, R93, R98): the fields of a word as numbers, each `SEL`
decoder's legal values, and from these the legal words by field. -/

namespace Sys2Proof

theorem fieldOp_toNat (cw : CmdWord) : (fieldOp cw).toNat = cw.toNat / 4096 := by
  have h := cw.isLt
  rw [fieldOp, BitVec.extractLsb'_toNat, Nat.shiftRight_eq_div_pow]
  omega

theorem fieldZ_toNat (cw : CmdWord) : (fieldZ cw).toNat = cw.toNat / 64 % 64 := by
  rw [fieldZ, BitVec.extractLsb'_toNat, Nat.shiftRight_eq_div_pow]

theorem fieldSel_toNat (cw : CmdWord) : (fieldSel cw).toNat = cw.toNat % 64 := by
  rw [fieldSel, BitVec.extractLsb'_toNat, Nat.shiftRight_zero]

theorem fieldZ_eq_zero_iff (cw : CmdWord) : fieldZ cw = 0#6 ↔ cw.toNat / 64 % 64 = 0 := by
  rw [← fieldZ_toNat, ← BitVec.toNat_inj, BitVec.toNat_zero]

theorem wordOf_toNat (op : BitVec 4) (sel : BitVec 6) : (wordOf op sel).toNat = op.toNat * 4096 + sel.toNat := by
  have hop := fieldOp_toNat (wordOf op sel)
  have hz := fieldZ_toNat (wordOf op sel)
  have hsel := fieldSel_toNat (wordOf op sel)
  rw [wordOf_fieldOp] at hop
  rw [wordOf_fieldZ, BitVec.toNat_zero] at hz
  rw [wordOf_fieldSel] at hsel
  omega

/-- A command word as the sum of the first word of its `OP` and of `SEL`, as rule R93 writes it. -/
theorem wordOf_eq_add (op : BitVec 4) (sel : BitVec 6) :
    wordOf op sel = BitVec.ofNat 16 (op.toNat * 4096) + sel.setWidth 16 := by
  apply BitVec.eq_of_toNat_eq
  rw [wordOf_toNat, BitVec.toNat_add, BitVec.toNat_ofNat, BitVec.toNat_setWidth]
  omega

theorem decodePerm_ok_iff (sel : BitVec 6) : (∃ i, decodePerm sel = .ok i) ↔ sel.toNat ≤ 5 := by
  unfold decodePerm
  split <;> grind

theorem decodeSubst_ok_iff (sel : BitVec 6) : (∃ i, decodeSubst sel = .ok i) ↔ sel.toNat ≤ 7 := by
  unfold decodeSubst
  split <;> grind

theorem decodeRotl_ok_iff (sel : BitVec 6) : (∃ i, decodeRotl sel = .ok i) ↔ sel.toNat = 1 ∨ sel.toNat = 2 := by
  unfold decodeRotl
  split <;> grind

theorem decodeHalfWidth_ok_iff (mk : BitVec 6 → Instr) (sel : BitVec 6) :
    (∃ i, decodeHalfWidth mk sel = .ok i) ↔ legalHalfWidth sel := by
  unfold decodeHalfWidth
  split
  case isTrue h => exact iff_of_true ⟨_, rfl⟩ h
  case isFalse h => exact iff_of_false (fun ⟨_, he⟩ => nomatch he) h

theorem decodePlain_ok_iff (j : Instr) (sel : BitVec 6) : (∃ i, decodePlain j sel = .ok i) ↔ sel.toNat = 0 := by
  unfold decodePlain
  split
  case isTrue h => simp [h]
  case isFalse h => simpa [← BitVec.toNat_inj] using h

/-- A word is legal exactly when `Z` is 0 and `SEL` is legal for `OP`. -/
theorem decode_ok_iff (cw : CmdWord) :
    (∃ i, decode cw = .ok i) ↔ fieldZ cw = 0#6 ∧ Claims.legalSelector (fieldOp cw).toNat (fieldSel cw).toNat := by
  by_cases hz : fieldZ cw = 0#6
  · rw [decode, if_neg (not_not.mpr hz)]
    split <;>
      simp_all [Claims.legalSelector, decodePerm_ok_iff, decodeHalfWidth_ok_iff, decodeSubst_ok_iff, decodeRotl_ok_iff,
        decodePlain_ok_iff]
  · simp [decode, hz]

end Sys2Proof
end

section
/-! The 84 legal words of 30_encoding.md rule R93, and ILLCMD for every other word (rule R96). -/

namespace Sys2Proof.Machine

theorem hasWord_split {hw : BitVec 6} (h : legalHalfWidth hw) : Claims.HasWord (.split hw) (wordOf 0x2#4 hw) :=
  ⟨by simp [decode, wordOf_fieldZ, wordOf_fieldOp, wordOf_fieldSel, decodeHalfWidth, h], rfl⟩

theorem hasWord_merge {hw : BitVec 6} (h : legalHalfWidth hw) : Claims.HasWord (.merge hw) (wordOf 0x3#4 hw) :=
  ⟨by simp [decode, wordOf_fieldZ, wordOf_fieldOp, wordOf_fieldSel, decodeHalfWidth, h], rfl⟩

/-- The list of legal words is four intervals and six single words. -/
theorem mem_legalWords_iff (w : Nat) :
    w ∈ Claims.legalWords ↔ (0x1000 ≤ w ∧ w < 0x1006) ∨ (0x2001 ≤ w ∧ w < 0x2021) ∨ (0x3001 ≤ w ∧ w < 0x3021) ∨
      (0x4000 ≤ w ∧ w < 0x4008) ∨ w ∈ [0x5001, 0x5002, 0x6000, 0x7000, 0x8000, 0x9000] := by
  simp only [Claims.legalWords, ← List.range'_eq_map_range, List.mem_append, List.mem_range'_1, or_assoc]

/-- The list of legal words and their description by field agree on every 16-bit number. -/
theorem mem_legalWords_iff_fields (cw : CmdWord) :
    cw.toNat ∈ Claims.legalWords ↔
      cw.toNat / 64 % 64 = 0 ∧ Claims.legalSelector (cw.toNat / 4096) (cw.toNat % 64) := by
  have hlt := cw.isLt
  simp only [mem_legalWords_iff, Claims.legalSelector, List.mem_cons, List.not_mem_nil, or_false]
  omega

theorem decode_ok_iff_toNat (cw : CmdWord) :
    (∃ i, decode cw = .ok i) ↔
      cw.toNat / 64 % 64 = 0 ∧ Claims.legalSelector (cw.toNat / 4096) (cw.toNat % 64) := by
  rw [decode_ok_iff, fieldZ_eq_zero_iff, fieldOp_toNat, fieldSel_toNat]

theorem decode_ok_iff_mem (cw : CmdWord) : (∃ i, decode cw = .ok i) ↔ cw.toNat ∈ Claims.legalWords := by
  rw [decode_ok_iff_toNat, mem_legalWords_iff_fields]

theorem faulted_eq_raise (s : State) (c : Cause) : Claims.faulted s c = s.raise c := by
  cases c <;> rfl

/-- A presented word that does not decode is ILLCMD, whatever the operands, and the port moves on. -/
theorem step_of_not_decoded {s : State} {cmd : Command} {rest : List PortIn} (hp : Claims.Presented s cmd rest)
    (hd : ¬ ∃ i, decode cmd.cw = .ok i) : step s = .next { Claims.faulted s .illcmd with inputs := rest } := by
  cases he : decode cmd.cw with
  | ok i => exact absurd ⟨i, he⟩ hd
  | error e =>
    obtain ⟨hidle, hin⟩ := hp
    rw [step, commandStep_of_illegal hidle (now_of_command hin) he, faulted_eq_raise, State.advance, State.raise_inputs,
      hin, List.tail_cons]

/-- Settles O29: the words of the table are checked row by row, the two families with a half width by their fields; the 84
words and the description by field both say what the decoder accepts. -/
theorem legalAndIllegalWords : Obligations.LegalAndIllegalWords := by
  refine ⟨?words, fun hw h => ⟨?split, ?merge⟩, decode_ok_iff_mem, by decide, by decide, decode_ok_iff_toNat, ?illegal⟩
  case words =>
    unfold Claims.HasWord
    decide
  case split =>
    exact wordOf_eq_add 0x2#4 hw ▸ hasWord_split h
  case merge =>
    exact wordOf_eq_add 0x3#4 hw ▸ hasWord_merge h
  case illegal =>
    intro s a b rest cw hcw hp
    exact step_of_not_decoded hp (mt (decode_ok_iff_mem cw).mp hcw)

end Sys2Proof.Machine
end

section
/-! How the response of a primitive command follows from the result of its function (40_primitives.md): the command
completes exactly when the function gives a value, and ends in the fault that the function gives. -/

namespace Sys2Proof.Machine

theorem completes_iff_of_answer {i : Instr} {s : State} {res : Except Cause (Word64 × Word64)}
    (hexec : exec i s = answer res s) (q0 q1 : Word64) : Claims.Completes i s q0 q1 ↔ res = .ok (q0, q1) := by
  rw [Claims.Completes, hexec]
  cases res with
  | ok q => simp [answer, State.respond, Prod.ext_iff]
  | error c => simp [answer, State.raise]

theorem completes_iff_of_answerOne {i : Instr} {s : State} {res : Except Cause Word64}
    (hexec : exec i s = answerOne res s) (q : Word64) : Claims.Completes i s q 0#64 ↔ res = .ok q := by
  rw [Claims.Completes, hexec]
  cases res with
  | ok q' => simp [answerOne, State.respond]
  | error c => simp [answerOne, State.raise]

theorem endsInFault_of_answer {i : Instr} {s : State} {c : Cause} (hexec : exec i s = answer (.error c) s) :
    Claims.EndsInFault i s c := by
  rw [Claims.EndsInFault, hexec, faulted_eq_raise, answer]

theorem endsInFault_of_answerOne {i : Instr} {s : State} {c : Cause} (hexec : exec i s = answerOne (.error c) s) :
    Claims.EndsInFault i s c := by
  rw [Claims.EndsInFault, hexec, faulted_eq_raise, answerOne]

/-- The corner cases of a command with one operand are facts about its function alone, whatever the rest of the state is.
They are taken as `List.Forall`, which is decided element by element. -/
theorem completes_of_cases {i : Instr} {f : Word64 → Except Cause Word64}
    (hexec : ∀ s, exec i s = answerOne (f s.opA) s) {α : Type} {cases : List α} {a q : α → Word64}
    (hcases : cases.Forall fun x => f (a x) = .ok (q x)) :
    ∀ s : State, ∀ x ∈ cases, s.opA = a x → Claims.Completes i s (q x) 0#64 := by
  intro s x hx ha
  rw [completes_iff_of_answerOne (hexec s), ha]
  exact List.forall_iff_forall_mem.1 hcases x hx

end Sys2Proof.Machine
end

section
/-! The PERM commands (40_primitives.md rules R121 to R127): each rule follows from what the common part does
with a table whose entries are in range. -/

namespace Sys2Proof.Machine

theorem promRead_mem {table : List Nat} {k : Nat} (hk : k < table.length) : Rom.promRead table k ∈ table := by
  rw [Rom.promRead, List.getD_eq_getElem _ _ hk]
  exact List.getElem_mem hk

theorem mem_range_of_tableOk {table : List Nat} {w p : Nat} (ht : tableOk table w = true) (hp : p ∈ table) :
    1 ≤ p ∧ p ≤ w := by
  simpa using List.all_eq_true.1 ht p hp

theorem mbit_setWidth {w p : Nat} (v : Word64) (hp : 1 ≤ p ∧ p ≤ w) : mbit (v.setWidth w) p = v.getLsbD (w - p) := by
  have hlt : w - p < w := by omega
  simp [mbit, hlt]

/-- Output position `k + 1` gets input position `T[k]` (rule R120). -/
theorem permuteBits_getLsbD_position {w n k : Nat} {table : List Nat} (v : BitVec w) (hlen : table.length = n)
    (hk : k < n) : (permuteBits n table v).getLsbD (n - 1 - k) = mbit v (Rom.promRead table k) := by
  rw [permuteBits_getLsbD n table v hlen _ (by omega), Rom.promRead, show n - 1 - (n - 1 - k) = k by omega]

/-- Only the positions in the table reach the result. -/
theorem permuteBits_congr {w : Nat} (n : Nat) {table : List Nat} {a b : BitVec w}
    (h : ∀ p ∈ table, mbit a p = mbit b p) : permuteBits n table a = permuteBits n table b :=
  List.foldl_ext _ _ _ fun out p hp => by rw [permuteStep, permuteStep, h p hp]

/-- A mask that keeps the positions in the table does not change the result. -/
theorem permuteBits_mask {w : Nat} (n : Nat) {table : List Nat} (v mask : BitVec w)
    (h : ∀ p ∈ table, mbit mask p = true) : permuteBits n table (v &&& mask) = permuteBits n table v :=
  permuteBits_congr n fun p hp => by
    have hm : mask.getLsbD (w - p) = true := h p hp
    rw [mbit, mbit, BitVec.getLsbD_and, hm, Bool.and_true]

theorem permute_full {table : List Nat} (hok : tableOk table 64 = true) (hlen : table.length = 64) (v : Word64) :
    permute v 64 table = .ok (permuteBits 64 table v) := by
  rw [permute_of_fits hok v.isLt, hlen, BitVec.setWidth_eq, BitVec.setWidth_eq]

/-- Two tables that are inverse as permutations of the positions undo each other. -/
theorem permuteBits_permuteBits_of_inverse {w : Nat} {table table' : List Nat} (hok' : tableOk table' w = true)
    (hlen : table.length = w) (hlen' : table'.length = w)
    (hinv : ∀ k < w, Rom.promRead table (Rom.promRead table' k - 1) = k + 1) (v : BitVec w) :
    permuteBits w table' (permuteBits w table v) = v := by
  apply BitVec.eq_of_getLsbD_eq
  intro i hi
  have hk : w - 1 - i < w := by omega
  obtain ⟨hp1, hpw⟩ := mem_range_of_tableOk hok' (promRead_mem (k := w - 1 - i) (by omega))
  calc (permuteBits w table' (permuteBits w table v)).getLsbD i
      = mbit (permuteBits w table v) (Rom.promRead table' (w - 1 - i)) := by
        rw [← permuteBits_getLsbD_position _ hlen' hk, show w - 1 - (w - 1 - i) = i by omega]
    _ = mbit v (Rom.promRead table (Rom.promRead table' (w - 1 - i) - 1)) := by
        rw [← permuteBits_getLsbD_position v hlen (by omega), mbit]
        congr 1
        omega
    _ = v.getLsbD i := by
        rw [hinv _ hk, mbit, show w - (w - 1 - i + 1) = i by omega]

section
variable {i : Instr} {w : Nat} {table : List Nat} (hexec : ∀ s, exec i s = permCommand w table s)
  (hok : tableOk table w = true)
include hexec

theorem completes_iff_permute (s : State) (q : Word64) :
    Claims.Completes i s q 0#64 ↔ permute s.opA w table = .ok q :=
  completes_iff_of_answerOne (hexec s) q

include hok

theorem permResult_of_table {cw : CmdWord} {n : Nat} {cases : List (Word64 × Word64)} (hword : Claims.HasWord i cw)
    (hn : n ≤ 64) (hlen : table.length = n) (hcases : cases.Forall fun aq => permute aq.1 w table = .ok aq.2) :
    Claims.PermResult i cw w n table cases := by
  refine ⟨hword, fun s hs => ?_, completes_of_cases (f := (permute · w table)) hexec hcases⟩
  refine ⟨_, (completes_iff_permute hexec s _).2 (permute_of_fits hok hs), ?bound, fun k hk => ?bit⟩
  case bound =>
    rw [hlen, BitVec.toNat_setWidth_of_le hn]
    exact BitVec.isLt _
  case bit =>
    have hrange := mem_range_of_tableOk hok (promRead_mem (hlen.symm ▸ hk))
    rw [hlen, BitVec.getLsbD_setWidth, permuteBits_getLsbD_position _ hlen hk, mbit_setWidth _ hrange,
      decide_eq_true (show n - 1 - k < 64 by omega), Bool.true_and]

theorem wideFaults_of_table : Claims.WideFaults i w := fun s hs =>
  endsInFault_of_answerOne (by rw [hexec, permCommand, permute_of_wide hok hs])

theorem maskedOut_of_table {mask : Word64} (hmask : ∀ p ∈ table, mbit (mask.setWidth w) p = true) :
    Claims.MaskedOut i mask := by
  intro s t q ht hs
  rw [completes_iff_permute hexec] at hs ⊢
  by_cases hfit : s.opA.toNat < 2 ^ w
  · have hfit' : (s.opA &&& mask).toNat < 2 ^ w := by
      rw [BitVec.toNat_and]
      exact Nat.and_le_left.trans_lt hfit
    rw [ht, permute_of_fits hok hfit', BitVec.setWidth_and, permuteBits_mask _ _ _ hmask, ← permute_of_fits hok hfit, hs]
  · simp [permute_of_wide hok (Nat.le_of_not_lt hfit)] at hs

end

/-- A 64-bit PERM command undoes another one whose table is the inverse. -/
theorem completes_of_inverse_table {i i' : Instr} {table table' : List Nat}
    (hexec : ∀ s, exec i s = permCommand 64 table s) (hexec' : ∀ s, exec i' s = permCommand 64 table' s)
    (hok : tableOk table 64 = true) (hok' : tableOk table' 64 = true) (hlen : table.length = 64)
    (hlen' : table'.length = 64) (hinv : ∀ k < 64, Rom.promRead table (Rom.promRead table' k - 1) = k + 1) :
    ∀ s t : State, ∀ q : Word64, t.opA = q → Claims.Completes i s q 0#64 → Claims.Completes i' t s.opA 0#64 := by
  intro s t q ht hs
  rw [completes_iff_permute hexec, permute_full hok hlen, Except.ok.injEq] at hs
  rw [completes_iff_permute hexec', permute_full hok' hlen', ht, ← hs,
    permuteBits_permuteBits_of_inverse hok' hlen hlen' hinv]

/-- Settles O1: the tables of IP and FP are inverse, entry by entry, so each command undoes the other. -/
theorem permIpAndFp : Obligations.PermIpAndFp := by
  have hip : ∀ s, exec .permIp s = permCommand 64 Rom.ip s := fun _ => rfl
  have hfp : ∀ s, exec .permFp s = permCommand 64 Rom.fp s := fun _ => rfl
  exact ⟨permResult_of_table hip tableOk_ip ⟨rfl, rfl⟩ (by decide) rfl (by decide +kernel),
    permResult_of_table hfp tableOk_fp ⟨rfl, rfl⟩ (by decide) rfl (by decide +kernel),
    completes_of_inverse_table hip hfp tableOk_ip tableOk_fp rfl rfl (by decide),
    completes_of_inverse_table hfp hip tableOk_fp tableOk_ip rfl rfl (by decide)⟩

/-- Settles O2: the two masks keep every position in the table of PC-1 and of PC-2. -/
theorem permPc1AndPc2 : Obligations.PermPc1AndPc2 := by
  have hpc1 : ∀ s, exec .permPc1 s = permCommand 64 Rom.pc1 s := fun _ => rfl
  have hpc2 : ∀ s, exec .permPc2 s = permCommand 56 Rom.pc2 s := fun _ => rfl
  exact ⟨permResult_of_table hpc1 tableOk_pc1 ⟨rfl, rfl⟩ (by decide) rfl (by decide +kernel),
    maskedOut_of_table hpc1 tableOk_pc1 (by decide),
    permResult_of_table hpc2 tableOk_pc2 ⟨rfl, rfl⟩ (by decide) rfl (by decide +kernel),
    maskedOut_of_table hpc2 tableOk_pc2 (by decide),
    wideFaults_of_table hpc2 tableOk_pc2⟩

/-- Settles O3: which positions of E appear twice is read off the table. -/
theorem permEAndP : Obligations.PermEAndP := by
  have he : ∀ s, exec .permE s = permCommand 32 Rom.e s := fun _ => rfl
  have hp : ∀ s, exec .permP s = permCommand 32 Rom.p s := fun _ => rfl
  exact ⟨permResult_of_table he tableOk_e ⟨rfl, rfl⟩ (by decide) rfl (by decide +kernel),
    wideFaults_of_table he tableOk_e,
    by decide,
    permResult_of_table hp tableOk_p ⟨rfl, rfl⟩ (by decide) rfl (by decide +kernel),
    wideFaults_of_table hp tableOk_p⟩

end Sys2Proof.Machine
end

section
/-! SPLIT and MERGE for every legal half width (40_primitives.md rules R128, R129), and their round trip (rule R142). -/

namespace Sys2Proof.Machine

theorem exec_split_of_legal {hw : BitVec 6} (h : legalHalfWidth hw) (s : State) :
    exec (.split hw) s = answer (split s.opA hw.toNat) s := if_pos h

theorem exec_merge_of_legal {hw : BitVec 6} (h : legalHalfWidth hw) (s : State) :
    exec (.merge hw) s = answerOne (merge s.opA s.opB hw.toNat) s := if_pos h

theorem decode_wordOf_split (hw : BitVec 6) : decode (wordOf 0x2#4 hw) = decodeHalfWidth .split hw := by
  simp [decode, wordOf_fieldZ, wordOf_fieldOp, wordOf_fieldSel]

theorem completes_split {hw : BitVec 6} (h : legalHalfWidth hw) {s : State} (hs : s.opA.toNat < 2 ^ (2 * hw.toNat)) :
    Claims.Completes (.split hw) s (s.opA >>> hw.toNat) (BitVec.ofNat 64 (s.opA.toNat % 2 ^ hw.toNat)) :=
  (completes_iff_of_answer (exec_split_of_legal h s) _ _).2 (split_of_fits hs)

theorem completes_merge {hw : BitVec 6} (h : legalHalfWidth hw) {s : State} (hA : s.opA.toNat < 2 ^ hw.toNat)
    (hB : s.opB.toNat < 2 ^ hw.toNat) :
    Claims.Completes (.merge hw) s (BitVec.ofNat 64 (s.opA.toNat * 2 ^ hw.toNat + s.opB.toNat)) 0#64 :=
  (completes_iff_of_answerOne (exec_merge_of_legal h s) _).2 (merge_of_fits hA hB)

theorem highHalf_toNat (v : Word64) (hw : Nat) : (v >>> hw).toNat = v.toNat / 2 ^ hw := by
  rw [BitVec.toNat_ushiftRight, Nat.shiftRight_eq_div_pow]

theorem lowHalf_toNat (v : Word64) (hw : Nat) : (BitVec.ofNat 64 (v.toNat % 2 ^ hw)).toNat = v.toNat % 2 ^ hw := by
  rw [BitVec.toNat_ofNat]
  exact Nat.mod_eq_of_lt ((Nat.mod_le _ _).trans_lt v.isLt)

theorem highHalf_lt {v hw : Nat} (h : v < 2 ^ (2 * hw)) : v / 2 ^ hw < 2 ^ hw :=
  Nat.div_lt_of_lt_mul (by rwa [← Nat.pow_add, ← Nat.two_mul])

theorem merged_lt {a b hw : Nat} (ha : a < 2 ^ hw) (hb : b < 2 ^ hw) : a * 2 ^ hw + b < 2 ^ (2 * hw) :=
  calc a * 2 ^ hw + b < (a + 1) * 2 ^ hw := by rw [Nat.succ_mul]; omega
    _ ≤ 2 ^ hw * 2 ^ hw := Nat.mul_le_mul_right _ ha
    _ = 2 ^ (2 * hw) := by rw [← Nat.pow_add, Nat.two_mul]

/-- Settles O4: a half width outside 1 to 32 has no command word, so the step takes ILLCMD before it looks at `A`. -/
theorem splitHalves : Obligations.SplitHalves := by
  refine ⟨fun hw h => ⟨wordOf_eq_add 0x2#4 hw ▸ hasWord_split h, fun s hs => ?halves, fun s hs => ?wide⟩,
    fun hw h s a b rest hp => ?illegal, fun s hs => ?k28, fun s hs => ?k32⟩
  case halves => exact ⟨_, _, completes_split h hs, highHalf_toNat _ _, lowHalf_toNat _ _⟩
  case wide => exact endsInFault_of_answer (by rw [exec_split_of_legal h, split_of_wide hs])
  case illegal =>
    have hdecode : ¬ ∃ i, decode (0x2000#16 + hw.setWidth 16) = .ok i := by
      rw [show 0x2000#16 + hw.setWidth 16 = wordOf 0x2#4 hw from (wordOf_eq_add 0x2#4 hw).symm, decode_wordOf_split,
        decodeHalfWidth_ok_iff]
      exact h
    exact step_of_not_decoded hp hdecode
  case k28 => exact (completes_iff_of_answer (exec_split_of_legal (by decide) s) _ _).2 (by rw [hs]; decide)
  case k32 => exact (completes_iff_of_answer (exec_split_of_legal (by decide) s) _ _).2 (by rw [hs]; decide)

/-- Settles O5: the merged value is below `2^(2*hw)`, so the port holds it in full. -/
theorem mergeHalves : Obligations.MergeHalves := by
  refine ⟨fun hw h => ⟨wordOf_eq_add 0x3#4 hw ▸ hasWord_merge h, fun s hA hB => ?merged, fun s hs => ?wide⟩,
    fun s hA hB => ?k28, fun s hA hB => ?k32⟩
  case merged =>
    have hlt := merged_lt hA hB
    have hport : 2 ^ (2 * hw.toNat) ≤ 2 ^ 64 := Nat.pow_le_pow_right (by decide) (by omega)
    have hq : (BitVec.ofNat 64 (s.opA.toNat * 2 ^ hw.toNat + s.opB.toNat)).toNat =
        s.opA.toNat * 2 ^ hw.toNat + s.opB.toNat := by
      rw [BitVec.toNat_ofNat]
      exact Nat.mod_eq_of_lt (hlt.trans_le hport)
    exact ⟨_, completes_merge h hA hB, hq, hq.trans_lt hlt⟩
  case wide => exact endsInFault_of_answerOne (by rw [exec_merge_of_legal h, merge_of_wide hs])
  case k28 => exact (completes_iff_of_answerOne (exec_merge_of_legal (by decide) s) _).2 (by rw [hA, hB]; decide)
  case k32 => exact (completes_iff_of_answerOne (exec_merge_of_legal (by decide) s) _).2 (by rw [hA, hB]; decide)

/-- Settles O6: the halves fit, and quotient and remainder by `2^hw` give the value back. -/
theorem splitMergeRoundTrip : Obligations.SplitMergeRoundTrip := by
  intro hw h s hs
  refine ⟨_, _, completes_split h hs, fun t hA hB => ?_⟩
  have hhigh : t.opA.toNat = s.opA.toNat / 2 ^ hw.toNat := by rw [hA, highHalf_toNat]
  have hlow : t.opB.toNat = s.opA.toNat % 2 ^ hw.toNat := by rw [hB, lowHalf_toNat]
  have hmerge := completes_merge h (s := t) (hhigh ▸ highHalf_lt hs)
    (hlow ▸ Nat.mod_lt _ (Nat.two_pow_pos hw.toNat))
  rwa [hhigh, hlow, Nat.div_add_mod', BitVec.ofNat_toNat, BitVec.setWidth_eq] at hmerge

end Sys2Proof.Machine
end

section
/-! The SUBST commands (40_primitives.md rules R130 to R138): the row and the column of a chunk in numbers, and from these
the eight rules as cases of one. -/

namespace Sys2Proof.Machine

theorem sboxRow_eq (c : Chunk) : sboxRow c = 2 * (c.toNat / 32 % 2) + c.toNat % 2 := by
  rw [sboxRow, BitVec.getLsbD, BitVec.getLsbD, Nat.toNat_testBit, Nat.toNat_testBit, Nat.pow_zero, Nat.div_one]

theorem sboxCol_eq (c : Chunk) : sboxCol c = c.toNat / 2 % 16 := by
  rw [sboxCol, BitVec.extractLsb'_toNat, Nat.shiftRight_eq_div_pow]

theorem sbox_getD_lt {j a : Nat} (hj : j < 8) (ha : a < 64) : (Rom.sbox j).getD a 0 < 16 := by
  rw [List.getD_eq_getElem _ _ (by rwa [sbox_length j hj])]
  exact sbox_entry_lt j hj _ (List.getElem_mem _)

theorem sromRead_toNat {j a : Nat} (hj : j < 8) (ha : a < 64) :
    (Rom.sromRead j a).toNat = (Rom.sbox j).getD a 0 := by
  rw [Rom.sromRead, BitVec.toNat_ofNat]
  exact Nat.mod_eq_of_lt (sbox_getD_lt hj ha)

/-- The entry a chunk selects, in the spec's numbers. -/
theorem substituteBits_toNat (c : Chunk) {j : Nat} (hj : j < 8) :
    (substituteBits c j).toNat =
      (Rom.sbox j).getD (32 * (c.toNat / 32 % 2) + 16 * (c.toNat % 2) + c.toNat / 2 % 16) 0 := by
  rw [substituteBits, sboxRow_eq, sboxCol_eq, sromRead_toNat hj (by omega)]
  congr 1
  omega

theorem substResult_of_box {i : Instr} {cw : CmdWord} {j : Nat} {cases : List (Nat × Nat)}
    (hexec : ∀ s, exec i s = substCommand j s) (hj : j < 8) (hword : Claims.HasWord i cw)
    (hcases : cases.Forall fun cq => substitute (BitVec.ofNat 64 cq.1) j = .ok (BitVec.ofNat 64 cq.2)) :
    Claims.SubstResult i cw (Rom.sbox j) cases := by
  refine ⟨hword, fun s hs => ?entry, fun s hs => ?wide, completes_of_cases (f := (substitute · j)) hexec hcases⟩
  case entry =>
    have hchunk : (s.opA.setWidth 6).toNat = s.opA.toNat := by
      rw [BitVec.toNat_setWidth]
      exact Nat.mod_eq_of_lt hs
    have hentry := substituteBits_toNat (s.opA.setWidth 6) hj
    rw [hchunk] at hentry
    refine ⟨_, (completes_iff_of_answerOne (hexec s) _).2 (substitute_of_fits j hs), ?_, ?_⟩
    · rw [BitVec.toNat_setWidth_of_le (by decide)]
      exact BitVec.isLt _
    · rw [BitVec.toNat_setWidth_of_le (by decide), hentry]
  case wide => exact endsInFault_of_answerOne (by rw [hexec, substCommand, substitute_of_wide j hs])

/-- Settles O8: the eight boxes are cases of one rule; their corner cases are lookups. -/
theorem substLookups : Obligations.SubstLookups :=
  ⟨substResult_of_box (j := 0) (fun _ => rfl) (by decide) ⟨rfl, rfl⟩ (by decide),
    substResult_of_box (j := 1) (fun _ => rfl) (by decide) ⟨rfl, rfl⟩ (by decide),
    substResult_of_box (j := 2) (fun _ => rfl) (by decide) ⟨rfl, rfl⟩ (by decide),
    substResult_of_box (j := 3) (fun _ => rfl) (by decide) ⟨rfl, rfl⟩ (by decide),
    substResult_of_box (j := 4) (fun _ => rfl) (by decide) ⟨rfl, rfl⟩ (by decide),
    substResult_of_box (j := 5) (fun _ => rfl) (by decide) ⟨rfl, rfl⟩ (by decide),
    substResult_of_box (j := 6) (fun _ => rfl) (by decide) ⟨rfl, rfl⟩ (by decide),
    substResult_of_box (j := 7) (fun _ => rfl) (by decide) ⟨rfl, rfl⟩ (by decide)⟩

end Sys2Proof.Machine
end

section
/-! The ROTL commands (40_primitives.md rules R139 to R141): the rotation in numbers and bit by bit, for every amount below
28, and the two amounts that have a word. -/

namespace Sys2Proof.Machine

/-- The part shifted out at the top fills the `n` bits that the shift has cleared, so the union is a sum (rule R139). -/
theorem rotateLeftBits_toNat (v : KHalf) {n : Nat} (hn : n < 28) :
    (rotateLeftBits v n).toNat = v.toNat * 2 ^ n % 2 ^ 28 + v.toNat / 2 ^ (28 - n) := by
  have hpow : 2 ^ n * 2 ^ (28 - n) = 2 ^ 28 := by rw [← Nat.pow_add, Nat.add_sub_of_le hn.le]
  have hhigh : v.toNat * 2 ^ n % 2 ^ 28 = 2 ^ n * (v.toNat % 2 ^ (28 - n)) := by
    rw [← Nat.mul_mod_mul_left, hpow, Nat.mul_comm]
  have hlow : v.toNat / 2 ^ (28 - n) < 2 ^ n := Nat.div_lt_of_lt_mul (by rw [Nat.mul_comm, hpow]; exact v.isLt)
  rw [rotateLeftBits_eq v n hn, BitVec.toNat_rotateLeft, Nat.mod_eq_of_lt hn, Nat.shiftLeft_eq,
    Nat.shiftRight_eq_div_pow, hhigh, Nat.two_pow_add_eq_or_of_lt hlow]

/-- Bit `k` of the operand becomes bit `(k + n) mod 28`. -/
theorem rotateLeftBits_getLsbD (v : KHalf) {n k : Nat} (hn : n < 28) (hk : k < 28) :
    (rotateLeftBits v n).getLsbD ((k + n) % 28) = v.getLsbD k := by
  rw [rotateLeftBits_eq v n hn, BitVec.getLsbD_rotateLeft, Nat.mod_eq_of_lt hn]
  by_cases hwrap : k + n < 28
  · rw [Nat.mod_eq_of_lt hwrap, decide_eq_false (show ¬ k + n < n by omega), decide_eq_true hwrap, cond_false,
      Bool.true_and, Nat.add_sub_cancel]
  · rw [decide_eq_true (show (k + n) % 28 < n by omega), cond_true, show 28 - n + (k + n) % 28 = k by omega]

theorem decode_wordOf_rotl (n : BitVec 6) : decode (wordOf 0x5#4 n) = decodeRotl n := by
  simp [decode, wordOf_fieldZ, wordOf_fieldOp, wordOf_fieldSel]

theorem decodeRotl_of_other_amount {n : BitVec 6} (h1 : n ≠ 1#6) (h2 : n ≠ 2#6) :
    decodeRotl n = .error .illegalSelector := by
  unfold decodeRotl
  split
  case h_1 h => exact absurd (BitVec.eq_of_toNat_eq h) h1
  case h_2 h => exact absurd (BitVec.eq_of_toNat_eq h) h2
  case h_3 => rfl

theorem rotlResult_of_amount {i : Instr} {cw : CmdWord} {n : Nat} {cases : List (Word64 × Word64)}
    (hexec : ∀ s, exec i s = rotlCommand n s) (hn : n < 28) (hword : Claims.HasWord i cw)
    (hcases : cases.Forall fun aq => rotateLeft aq.1 n = .ok aq.2) : Claims.RotlResult i cw n cases := by
  refine ⟨hword, fun s hs => ?rotated, fun s hs => ?wide, completes_of_cases (f := (rotateLeft · n)) hexec hcases⟩
  case rotated =>
    have hfield : (s.opA.setWidth 28).toNat = s.opA.toNat := by
      rw [BitVec.toNat_setWidth]
      exact Nat.mod_eq_of_lt hs
    refine ⟨_, (completes_iff_of_answerOne (hexec s) _).2 (rotateLeft_of_fits n hs), ?_, ?_, fun k hk => ?_⟩
    · rw [BitVec.toNat_setWidth_of_le (by decide), rotateLeftBits_toNat _ hn, hfield]
    · rw [BitVec.toNat_setWidth_of_le (by decide)]
      exact BitVec.isLt _
    · rw [BitVec.getLsbD_setWidth, decide_eq_true (show (k + n) % 28 < 64 by omega), Bool.true_and,
        rotateLeftBits_getLsbD _ hn hk, BitVec.getLsbD_setWidth, decide_eq_true hk, Bool.true_and]
  case wide => exact endsInFault_of_answerOne (by rw [hexec, rotlCommand, rotateLeft_of_wide n hs])

/-- Settles O9: both amounts are cases of the rotation by `n`, and the `SEL` decoder of ROTL knows no third one. -/
theorem Rotl.rotateLeft : Obligations.RotateLeft := by
  refine ⟨rotlResult_of_amount (fun _ => rfl) (by decide) ⟨rfl, rfl⟩ (by decide),
    rotlResult_of_amount (fun _ => rfl) (by decide) ⟨rfl, rfl⟩ (by decide), fun n h1 h2 => ?_⟩
  rw [show 0x5000#16 + n.setWidth 16 = wordOf 0x5#4 n from (wordOf_eq_add 0x5#4 n).symm, decode_wordOf_rotl,
    decodeRotl_of_other_amount h1 h2]

end Sys2Proof.Machine
end

section
/-! The key schedule (41_key_schedule.md rules R151, R155) bit by bit, and the keys whose carry state no round changes
(corner cases of rule R150). -/

namespace Sys2Proof.Machine

theorem rot_lt_28 : ∀ i < 16, Rom.rot i < 28 := by decide

/-- A round moves the low half within the low half. -/
theorem carryRound_getLsbD_low (cd : Carry) {n b : Nat} (hn : n < 28) (hb : b < 28) :
    (carryRound n cd).getLsbD ((b + n) % 28) = cd.getLsbD b := by
  rw [carryRound, mergeBits_getLsbD, if_pos (by omega), rotateLeftBits_getLsbD _ hn hb, splitBits_snd_getLsbD _ _ hb]

/-- A round moves the high half within the high half. -/
theorem carryRound_getLsbD_high (cd : Carry) {n b : Nat} (hn : n < 28) (hb : b < 28) :
    (carryRound n cd).getLsbD (28 + (b + n) % 28) = cd.getLsbD (28 + b) := by
  rw [carryRound, mergeBits_getLsbD, if_neg (by omega), Nat.add_sub_cancel_left, rotateLeftBits_getLsbD _ hn hb,
    splitBits_fst_getLsbD _ _ hb]

/-- Settles O11: the sequence is that of `carryState`; a round by `ROT[i]` keeps each half to itself. -/
theorem keyScheduleSequence : Obligations.KeyScheduleSequence := by
  intro key
  refine ⟨carryState key, fun k hk => ?start, fun i hi => ⟨fun b hb => ?low, fun b hb => ?high⟩, fun i k hk => ?subkey⟩
  case start => exact permuteBits_getLsbD_position key rfl hk
  case low => exact carryRound_getLsbD_low (carryState key i) (rot_lt_28 i hi) hb
  case high => exact carryRound_getLsbD_high (carryState key i) (rot_lt_28 i hi) hb
  case subkey =>
    have hkey : (keysched key)[i] = subkeyOf (carryState key (i.val + 1)) := keysched_getElem key i.val i.isLt
    rw [hkey]
    exact permuteBits_getLsbD_position (carryState key (i.val + 1)) rfl hk

/-- Where every round leaves the first carry state as it is, all subkeys are the subkey of that state. -/
theorem keysched_getElem_of_fixed {key : Word64} {cd : Carry} (hstart : carryState key 0 = cd)
    (hfixed : ∀ i < 16, carryRound (Rom.rot i) cd = cd) (i : Fin 16) : (keysched key)[i] = subkeyOf cd := by
  have hcarry : ∀ n ≤ 16, carryState key n = cd := by
    intro n hn
    induction n with
    | zero => exact hstart
    | succ n ih => rw [carryState_succ, ih (by omega), hfixed n hn]
  have hkey : (keysched key)[i] = subkeyOf (carryState key (i.val + 1)) := keysched_getElem key i.val i.isLt
  rw [hkey, hcarry _ i.isLt]

theorem carryRound_zeros : ∀ i < 16, carryRound (Rom.rot i) 0#56 = 0#56 := by decide

theorem carryRound_ones : ∀ i < 16, carryRound (Rom.rot i) 0xFFFFFFFFFFFFFF#56 = 0xFFFFFFFFFFFFFF#56 := by decide

theorem keysched_getElem_of_zeros {key : Word64} (hstart : carryState key 0 = 0#56) (i : Fin 16) :
    (keysched key)[i] = 0#48 :=
  (keysched_getElem_of_fixed hstart carryRound_zeros i).trans (by decide +kernel)

theorem keysched_getElem_of_ones {key : Word64} (hstart : carryState key 0 = 0xFFFFFFFFFFFFFF#56) (i : Fin 16) :
    (keysched key)[i] = 0xFFFFFFFFFFFF#48 :=
  (keysched_getElem_of_fixed hstart carryRound_ones i).trans (by decide +kernel)

/-- Settles O10: NEW's update is the model's own; the keys of the corner cases have a first carry state of equal bits, which
no rotation changes. -/
theorem newBuildsSchedule : Obligations.NewBuildsSchedule := by
  refine ⟨⟨rfl, rfl⟩, fun _ => rfl, fun i => ⟨?_, ?_, ?_, ?_⟩, by decide +kernel, by decide +kernel, by decide +kernel⟩
  · exact keysched_getElem_of_zeros (by decide +kernel) i
  · exact keysched_getElem_of_zeros (by decide +kernel) i
  · exact keysched_getElem_of_ones (by decide +kernel) i
  · exact keysched_getElem_of_ones (by decide +kernel) i

end Sys2Proof.Machine
end

section
/-! Runs of commands (70_reset_and_hazards.md rule R260) and the schedule that a NEW leaves for them (41_key_schedule.md rule
R158). -/

namespace Sys2Proof.Machine

theorem transact_of_decoded {s : State} {cmd : Command} {i : Instr} (hidle : s.ph = .idle)
    (hd : decode cmd.cw = .ok i) : transact cmd s = accepted (exec i (s.present cmd)) :=
  commandStep_of_decoded (s := s.present cmd) hidle (now_of_command (State.present_inputs s cmd)) hd

theorem transact_of_illegal {s : State} {cmd : Command} {e : DecodeError} (hidle : s.ph = .idle)
    (hd : decode cmd.cw = .error e) : transact cmd s = .next ((s.present cmd).raise .illcmd).advance :=
  commandStep_of_illegal (s := s.present cmd) hidle (now_of_command (State.present_inputs s cmd)) hd

theorem runCommands_cons {cmd : Command} {s t : State} (h : transact cmd s = .next t) (rest : List Command) :
    runCommands (cmd :: rest) s = (runCommands rest t).map fun p => (t.rsp :: p.1, p.2) := by
  simp only [runCommands, h]
  cases runCommands rest t <;> rfl

/-- A run goes on from the state that its first part leaves. -/
theorem runCommands_append {xs : List Command} {s t : State} {rs : List (Option Response)}
    (h : runCommands xs s = some (rs, t)) (ys : List Command) :
    runCommands (xs ++ ys) s = (runCommands ys t).map fun p => (rs ++ p.1, p.2) := by
  induction xs generalizing s rs with
  | nil =>
    cases h
    simp
  | cons cmd xs ih =>
    cases ht : transact cmd s with
    | next u =>
      rw [runCommands_cons ht, Option.map_eq_some_iff] at h
      obtain ⟨⟨rs', t'⟩, hrun, heq⟩ := h
      cases heq
      rw [List.cons_append, runCommands_cons ht, ih hrun, Option.map_map]
      rfl
    | fault r => exact nomatch r
    | refused r => simp [runCommands, ht] at h

/-- A predicate that every command of a list keeps holds after the run of the list. -/
theorem runCommands_keeps {P : State → Prop} {cmds : List Command}
    (hkeep : ∀ cmd ∈ cmds, ∀ s, P s → ∃ t, transact cmd s = .next t ∧ P t) {s : State} (hs : P s) :
    ∃ rs t, runCommands cmds s = some (rs, t) ∧ P t := by
  induction cmds generalizing s with
  | nil => exact ⟨[], s, rfl, hs⟩
  | cons cmd cmds ih =>
    obtain ⟨hhead, htail⟩ := List.forall_mem_cons.mp hkeep
    obtain ⟨t, ht, hPt⟩ := hhead s hs
    obtain ⟨rs, u, hu, hPu⟩ := ih htail hPt
    exact ⟨t.rsp :: rs, u, by rw [runCommands_cons ht, hu, Option.map_some], hPu⟩

/-- The FCE waits in `IDLE` with the whole schedule of the key in its key store, and `KV` says so. -/
def HoldsKey (key : Word64) (s : State) : Prop := s.ph = .idle ∧ s.ks = fullStore (keysched key) ∧ s.kv = true

@[simp] theorem newState_ks (s : State) : (newState s).ks = fullStore (keysched s.opA) := rfl

/-- NEW puts the schedule of its key in place, whatever the key store held. -/
theorem transact_new {s : State} (hidle : s.ph = .idle) (key b : Word64) :
    ∃ t, transact ⟨0x6000#16, key, b⟩ s = .next t ∧ HoldsKey key t := by
  have hword : decode 0x6000#16 = .ok .new := by decide
  refine ⟨(newState (s.present ⟨0x6000#16, key, b⟩)).advance, transact_of_decoded (i := .new) hidle hword, rfl, ?_, rfl⟩
  rw [State.advance_ks, newState_ks, opA_present]

section
variable {key : Word64} {s : State} (hs : HoldsKey key s) {cmd : Command}
include hs

/-- Only NEW changes the key store or `KV`; every command ends in `IDLE`. -/
theorem HoldsKey.transact_of_ne_new (hnew : decode cmd.cw ≠ .ok .new) :
    ∃ t, transact cmd s = .next t ∧ HoldsKey key t := by
  obtain ⟨hidle, hks, hkv⟩ := hs
  cases hd : decode cmd.cw with
  | error e => exact ⟨_, transact_of_illegal hidle hd, hidle, hks, hkv⟩
  | ok i =>
    obtain ⟨t, ht, hout⟩ := exec_outcome i (s.present cmd)
    refine ⟨t.advance, by rw [transact_of_decoded hidle hd, ht, accepted], ?_⟩
    obtain (⟨q0, q1, rfl⟩ | ⟨e, -, rfl⟩) | ⟨rfl, -⟩ | ⟨-, -, q, rfl⟩ := hout
    · exact ⟨hidle, hks, hkv⟩
    · exact ⟨hidle, hks, hkv⟩
    · exact absurd hd hnew
    · exact ⟨rfl, hks, hkv⟩

/-- ENC and DEC answer with the engine's result under the schedule of the key. -/
theorem HoldsKey.transact_crypt {i : Instr} {dir : Bool} (hd : decode cmd.cw = .ok i)
    (hexec : ∀ s, exec i s = cryptCommand dir s) :
    ∃ t, transact cmd s = .next t ∧ t.rsp = some { err := .ok, q0 := crypt (keysched key) cmd.a dir, q1 := 0#64 } := by
  obtain ⟨hidle, hks, hkv⟩ := hs
  have hsched : (s.present cmd).schedule = keysched key := schedule_of_full hks
  refine ⟨((s.present cmd).endCrypt.respond (crypt (keysched key) cmd.a dir) 0#64).advance, ?_, rfl⟩
  rw [transact_of_decoded hidle hd, hexec, cryptCommand, State.present_kv, if_pos hkv, hsched, opA_present, accepted]

end

/-- Settles O15: `HoldsKey` holds after the NEW and through every command between, and there it fixes the answer of ENC and
of DEC. -/
theorem scheduleLastsUntilNextNew : Obligations.ScheduleLastsUntilNextNew := by
  intro s hidle key b block b' between hbetween
  obtain ⟨s₀, hnew, hs₀⟩ := transact_new hidle key b
  obtain ⟨rs, t, hrun, ht⟩ := runCommands_keeps
    (fun cmd hcmd _ hs => HoldsKey.transact_of_ne_new hs (hbetween cmd hcmd)) hs₀
  have hcrypt {cw : CmdWord} {i : Instr} {dir : Bool} (hd : decode cw = .ok i)
      (hexec : ∀ s, exec i s = cryptCommand dir s) :
      ∃ rs u, runCommands (⟨0x6000#16, key, b⟩ :: (between ++ [⟨cw, block, b'⟩])) s = some (rs, u) ∧
        u.rsp = some { err := .ok, q0 := crypt (keysched key) block dir, q1 := 0#64 } := by
    obtain ⟨u, hu, hrsp⟩ := ht.transact_crypt (cmd := ⟨cw, block, b'⟩) hd hexec
    exact ⟨_, u, by rw [runCommands_cons hnew, runCommands_append hrun, runCommands_cons hu]; rfl, hrsp⟩
  obtain ⟨-, hks, hkv⟩ := ht
  exact ⟨⟨_, t, by rw [runCommands_cons hnew, hrun, Option.map_some], hks, hkv⟩,
    hcrypt (i := .enc) (by decide) fun _ => rfl, hcrypt (i := .dec) (by decide) fun _ => rfl⟩

end Sys2Proof.Machine
end

section
/-! The key-schedule state machine (41_key_schedule.md rules R152 to R154): which of its steps a cycle takes. -/

namespace Sys2Proof.Machine

/-- A NEW in `IDLE` starts with step K0, gives no response yet, and the port moves on. -/
theorem tick_of_new (u : Config.Unroll) {s : State} {cmd : Command} {rest : List PortIn}
    (hp : Claims.Presented s cmd rest) (hd : decode cmd.cw = .ok .new) :
    tick u s = .next (stepK0 cmd.a s).silent.advance := by
  obtain ⟨hidle, hin⟩ := hp
  rw [tick_of_command (now_of_command hin) hidle, commandStart, hd, opA_of_command hin]
  rfl

theorem roundStep_of_keygen {s : State} {i : Fin 16} (hph : s.ph = .keygen) (hrc : s.rc.val = i.val) :
    roundStep s = stepK i s := by
  have hlt : s.rc.val < 16 := hrc ▸ i.isLt
  have hi : i = ⟨s.rc.val, hlt⟩ := Fin.ext hrc.symm
  rw [hi, roundStep, dif_pos hlt, hph]

theorem endStep_of_keygen {s : State} (hph : s.ph = .keygen) : endStep s = stepKend s := by
  rw [endStep, hph]

section
variable {s : State} (hph : s.ph = .keygen) (hrst : s.now ≠ .reset)
include hph hrst

/-- With rounds left, a step is K(i), whatever else the host drives. -/
theorem step_of_keygen_round {i : Fin 16} (hrc : s.rc.val = i.val) : step s = .next (stepK i s.hold.silent) := by
  have hbusy : s.ph ≠ .idle := by simp [hph]
  rw [step_of_busy hrst hbusy, (busyCycle_round hbusy (hrc ▸ i.isLt)).1]
  exact congrArg _ (roundStep_of_keygen hph hrc)

/-- After the sixteen rounds, a step is Kend. -/
theorem step_of_keygen_end (hrc : s.rc.val = 16) : step s = .next (stepKend s.hold.silent) := by
  have hbusy : s.ph ≠ .idle := by simp [hph]
  rw [step_of_busy hrst hbusy, (busyCycle_end hbusy hrc).1, endStep_of_keygen (s := s.hold.silent) hph]

end

/-- Settles O49: each cycle takes the one step that the phase and `RC` enable, and that step's update is the one stated. -/
theorem keygenSteps : Obligations.KeygenSteps := by
  refine ⟨fun u s cmd rest hp hd => ?k0, fun s hph hrst i hrc => ?k, fun s hph hrst hrc => ?kend⟩
  case k0 =>
    have hrest : s.inputs.tail = rest := by rw [hp.2, List.tail_cons]
    refine ⟨_, tick_of_new u hp hd, ?_, mergeBits_splitBits (hw := 28) (permuteBits 56 Rom.pc1 cmd.a)⟩
    rw [← hrest]
    rfl
  case k =>
    have hrot (v : KHalf) : rotateLeftBits v (Rom.rot i) = v.rotateLeft (Rom.rot i) :=
      rotateLeftBits_eq v _ (rot_lt_28 i i.isLt)
    refine ⟨_, step_of_keygen_round hph hrst hrc, ?_, ?written, fun j hj => ?kept⟩
    · rw [← hrot, ← hrot]
      rfl
    case written => exact (storeEntry_getElem s.ks i _ i i.isLt).trans (if_pos rfl)
    case kept => exact (storeEntry_getElem s.ks i _ j j.isLt).trans (if_neg fun h => hj (Fin.ext h.symm))
  case kend => exact step_of_keygen_end hph hrst hrc

end Sys2Proof.Machine
end

section
/-! The round function (42_round_function.md rules R170, R172, R173) in numbers: a chunk as quotient and remainder, the
concatenation of nibbles as a sum, its digits, and the box entry that a chunk of the mixed value selects; and the
command FRND (rule R171). -/

namespace Sys2Proof.Machine

theorem chunk_toNat (y : Subkey) (j : Nat) : (chunk y j).toNat = y.toNat / 2 ^ (42 - 6 * j) % 64 := by
  rw [chunk, BitVec.extractLsb'_toNat, Nat.shiftRight_eq_div_pow]

theorem chunk_getLsbD (y : Subkey) (j : Nat) {b : Nat} (hb : b < 6) :
    (chunk y j).getLsbD b = y.getLsbD (42 - 6 * j + b) := by
  rw [chunk, BitVec.getLsbD_extractLsb', decide_eq_true hb, Bool.true_and]

/-- The lower part leaves the upper part's bits alone, so the union of the two is a sum. -/
theorem append_toNat {m n : Nat} (x : BitVec m) (y : BitVec n) : (x ++ y).toNat = x.toNat * 2 ^ n + y.toNat := by
  rw [BitVec.toNat_append, ← Nat.shiftLeft_add_eq_or_of_lt y.isLt, Nat.shiftLeft_eq]

/-- Rule R173: nibble `j` has the weight `2 ^ (28 - 4 * j)`. -/
theorem concat4_toNat (s : Nat → Nibble) :
    (concat4 s).toNat = ((List.range 8).map fun j => (s j).toNat * 2 ^ (28 - 4 * j)).sum := by
  simp only [concat4, append_toNat, List.sum_range_succ, List.range_zero, List.map_nil, List.sum_nil]
  omega

/-- Each nibble is below 16, so it is the digit of its weight in the sum. -/
theorem concat4_digit (s : Nat → Nibble) {j : Nat} (hj : j < 8) :
    (concat4 s).toNat / 2 ^ (28 - 4 * j) % 16 = (s j).toNat := by
  simp only [concat4, append_toNat]
  interval_cases j <;> omega

/-- Stage 3 in the spec's numbers: the first, last and middle bits of chunk `j` are bits `47 - 6 * j`, `42 - 6 * j` and
`46 - 6 * j` to `43 - 6 * j` of the mixed value. -/
theorem substituteBits_chunk_toNat (y : Subkey) {j : Nat} (hj : j < 8) :
    (substituteBits (chunk y j) j).toNat =
      (Rom.sbox j).getD (32 * (y.toNat / 2 ^ (47 - 6 * j) % 2) + 16 * (y.toNat / 2 ^ (42 - 6 * j) % 2) +
        y.toNat / 2 ^ (43 - 6 * j) % 16) 0 := by
  have hfirst : y.toNat / 2 ^ (47 - 6 * j) = y.toNat / 2 ^ (42 - 6 * j) / 32 := by
    rw [Nat.div_div_eq_div_mul, ← Nat.pow_add _ _ 5, show 42 - 6 * j + 5 = 47 - 6 * j by omega]
  have hmiddle : y.toNat / 2 ^ (43 - 6 * j) = y.toNat / 2 ^ (42 - 6 * j) / 2 := by
    rw [Nat.div_div_eq_div_mul, ← Nat.pow_add_one, show 42 - 6 * j + 1 = 43 - 6 * j by omega]
  rw [substituteBits_toNat _ hj, chunk_toNat, hfirst, hmiddle]
  congr 1
  omega

/-- Settles O17: the stages are the model's own intermediate values, `z` the concatenation of the box outputs. -/
theorem roundFunctionStages : Obligations.RoundFunctionStages := by
  refine ⟨fun y j _ => ⟨chunk_toNat y j, fun b hb => chunk_getLsbD y j hb⟩, concat4_toNat, fun r k => ?stages⟩
  refine ⟨permuteBits 48 Rom.e r, permuteBits 48 Rom.e r ^^^ k,
    concat4 fun j => substituteBits (chunk (permuteBits 48 Rom.e r ^^^ k) j) j,
    fun i hi => ?expansion, rfl, fun j hj => ?boxes, fun i hi => ?permutation⟩
  case expansion => exact permuteBits_getLsbD_position r rfl hi
  case boxes => exact (concat4_digit _ hj).trans (substituteBits_chunk_toNat _ hj)
  case permutation => exact permuteBits_getLsbD_position _ rfl hi

/-- The corner cases of a command that reads both operands are facts about its function alone, as for one operand in
`completes_of_cases`. -/
theorem completes_of_operand_pairs {i : Instr} {f : Word64 → Word64 → Except Cause Word64}
    (hexec : ∀ s, exec i s = answerOne (f s.opA s.opB) s) {cases : List (Word64 × Word64 × Word64)}
    (hcases : cases.Forall fun abq => f abq.1 abq.2.1 = .ok abq.2.2) :
    ∀ s : State, ∀ abq ∈ cases, s.opA = abq.1 → s.opB = abq.2.1 → Claims.Completes i s abq.2.2 0#64 := by
  intro s abq habq hA hB
  rw [completes_iff_of_answerOne (hexec s), hA, hB]
  exact List.forall_iff_forall_mem.1 hcases abq habq

/-- Settles O16: the response follows from the round function's own value or fault; the corner cases and the stages of
the example are evaluations. -/
theorem frndEvaluatesRoundFunction : Obligations.FrndEvaluatesRoundFunction := by
  have hexec : ∀ s, exec .frnd s = answerOne (roundFunction s.opA s.opB) s := fun _ => rfl
  refine ⟨⟨rfl, rfl⟩, fun s hA hB => ?value, fun s hwide => ?wide,
    completes_of_operand_pairs hexec (by decide +kernel),
    by decide +kernel, by decide, by decide, by decide, by decide +kernel⟩
  case value => exact (completes_iff_of_answerOne (hexec s) _).2 (roundFunction_of_fits hA hB)
  case wide => exact endsInFault_of_answerOne (by rw [hexec, roundFunction_of_wide hwide])

end Sys2Proof.Machine
end

section
/-! The cipher engine (43_cipher_engine.md rules R185, R191, R192): the pairs of halves round by round, the order of the
subkeys in the two directions, and the round trip of rule R193. -/

namespace Sys2Proof.Machine

/-- Rule R191 on a schedule, and on a key store whose entries may hold no value. -/
theorem getElem_subkeyIndex {α : Type} (xs : Vector α 16) (dir : Bool) (j : Fin 16) :
    xs[subkeyIndex dir j] = if dir then xs[15 - j.val] else xs[j.val] := by
  cases dir with
  | false => rfl
  | true => simp [subkeyIndex_true]

theorem subkeyIndex_not (dir : Bool) (j : Fin 16) : subkeyIndex (!dir) j = subkeyIndex dir j.rev := by
  cases dir with
  | false => rfl
  | true => exact (Fin.rev_rev j).symm

/-- `(L_n, R_n)` of rule R185: the halves after the first `n` rounds. -/
def halvesAfter (ks : Schedule) (dir : Bool) (b : Word64) (n : Nat) : Half × Half :=
  ((List.finRange 16).take n).foldl (fun x j => feistelRound ks[subkeyIndex dir j] x) (initialHalves b)

theorem halvesAfter_zero (ks : Schedule) (dir : Bool) (b : Word64) : halvesAfter ks dir b 0 = initialHalves b := rfl

theorem halvesAfter_succ (ks : Schedule) (dir : Bool) (b : Word64) (j : Fin 16) :
    halvesAfter ks dir b (j.val + 1) = feistelRound ks[subkeyIndex dir j] (halvesAfter ks dir b j.val) := by
  have htake : (List.finRange 16).take (j.val + 1) = (List.finRange 16).take j.val ++ [j] := by
    rw [← List.take_append_getElem (by simp), List.getElem_finRange]
    rfl
  rw [halvesAfter, htake, List.foldl_append]
  rfl

theorem crypt_eq_finalBlock (ks : Schedule) (dir : Bool) (b : Word64) :
    crypt ks b dir = finalBlock (halvesAfter ks dir b 16) := rfl

/-- Settles O22: the sequence is that of `halvesAfter`, and the block handed to FP has `R_16` as its high half. -/
theorem cryptRoundSequence : Obligations.CryptRoundSequence := by
  intro ks b dir
  refine ⟨fun n => (halvesAfter ks dir b n).1, fun n => (halvesAfter ks dir b n).2, fun k hk => ?start, fun j => ?round,
    fun k hk => ?final⟩
  case start =>
    have hstart : (initialHalves b).1 ++ (initialHalves b).2 = permuteBits 64 Rom.ip b :=
      mergeBits_splitBits (hw := 32) (permuteBits 64 Rom.ip b)
    simp only [halvesAfter_zero, hstart]
    exact permuteBits_getLsbD_position b rfl hk
  case round =>
    simp only [halvesAfter_succ, ← getElem_subkeyIndex]
    exact ⟨rfl, rfl⟩
  case final =>
    rw [crypt_eq_finalBlock]
    exact permuteBits_getLsbD_position _ rfl hk

/-- The subkeys in the order in which the sixteen rounds take them (rule R191). -/
def roundKeys (ks : Schedule) (dir : Bool) : List Subkey := (List.finRange 16).map fun j => ks[subkeyIndex dir j]

theorem roundKeys_not (ks : Schedule) (dir : Bool) : roundKeys ks (!dir) = (roundKeys ks dir).reverse := by
  simp only [roundKeys, subkeyIndex_not, ← List.map_reverse, List.finRange_reverse, List.map_map, Function.comp_def]

theorem sixteenRounds_eq_foldl (ks : Schedule) (dir : Bool) (lr : Half × Half) :
    sixteenRounds ks dir lr = (roundKeys ks dir).foldl (fun x k => feistelRound k x) lr := by
  rw [sixteenRounds, roundKeys, List.foldl_map]

/-- Any rounds, the swap, the same rounds in reverse order and the swap give the pair back: the two rounds that meet at the
swap cancel. -/
theorem foldl_feistelRound_reverse_swap (keys : List Subkey) (x : Half × Half) :
    (keys.reverse.foldl (fun x k => feistelRound k x) (keys.foldl (fun x k => feistelRound k x) x).swap).swap = x := by
  induction keys generalizing x with
  | nil => exact Prod.swap_swap x
  | cons k keys ih =>
    have hinner := Prod.swap_eq_iff_eq_swap.1 (ih (feistelRound k x))
    simp only [List.reverse_cons, List.foldl_append, List.foldl_cons, List.foldl_nil, hinner]
    exact feistelRound_swap k x

theorem sixteenRounds_swap (ks : Schedule) (dir : Bool) (x : Half × Half) :
    (sixteenRounds ks (!dir) (sixteenRounds ks dir x).swap).swap = x := by
  rw [sixteenRounds_eq_foldl, sixteenRounds_eq_foldl, roundKeys_not]
  exact foldl_feistelRound_reverse_swap _ x

theorem initialHalves_finalBlock (lr : Half × Half) : initialHalves (finalBlock lr) = lr.swap := by
  rw [initialHalves, finalBlock, permuteBits_permuteBits_of_inverse tableOk_ip rfl rfl (by decide)]
  exact splitBits_mergeBits lr.2 lr.1

theorem finalBlock_swap_initialHalves (b : Word64) : finalBlock (initialHalves b).swap = b := by
  rw [finalBlock, Prod.fst_swap, Prod.snd_swap, initialHalves, mergeBits_splitBits (hw := 32)]
  exact permuteBits_permuteBits_of_inverse tableOk_fp rfl rfl (by decide) b

/-- Each direction undoes the other, under every schedule (rule R193). -/
theorem crypt_crypt_not (ks : Schedule) (b : Word64) (dir : Bool) : crypt ks (crypt ks b dir) (!dir) = b := by
  calc crypt ks (crypt ks b dir) (!dir)
      = finalBlock (sixteenRounds ks (!dir) (sixteenRounds ks dir (initialHalves b)).swap) := by
        rw [crypt, crypt, initialHalves_finalBlock]
    _ = finalBlock (initialHalves b).swap := by
        rw [← Prod.swap_swap (sixteenRounds ks (!dir) _), sixteenRounds_swap]
    _ = b := finalBlock_swap_initialHalves b

/-- An encryption of `b` to `c` is a decryption of `c` to `b`. -/
theorem crypt_true_of_crypt_false {ks : Schedule} {b c : Word64} (h : crypt ks b false = c) : crypt ks c true = b :=
  h ▸ crypt_crypt_not ks b false

end Sys2Proof.Machine
end

section
/-! The commands ENC and DEC (43_cipher_engine.md rules R186, R187). -/

namespace Sys2Proof.Machine

theorem cryptCommand_of_key {s : State} (dir : Bool) (hkv : s.kv = true) :
    cryptCommand dir s = .next (s.endCrypt.respond (crypt s.schedule s.opA dir) 0#64) := by
  rw [cryptCommand, if_pos hkv]

theorem endsInFault_of_no_key {i : Instr} {dir : Bool} (hexec : ∀ s, exec i s = cryptCommand dir s) {s : State}
    (hkv : s.kv = false) : Claims.EndsInFault i s .nokey := by
  rw [Claims.EndsInFault, hexec, cryptCommand, if_neg (by simp [hkv]), faulted_eq_raise]

/-- Rule R195: with the key 0 this block is its own encryption. -/
theorem crypt_zero_key_fixed_point :
    crypt (keysched 0#64) 0xAC3C22BAF7113361#64 false = 0xAC3C22BAF7113361#64 := by decide +kernel

/-- The example of rule R186. -/
theorem crypt_enc_example :
    crypt (keysched 0xFFFFFFFFFFFFFB2D#64) 0x00007048860F3A38#64 false = 0x839C9DC42B18D3B4#64 := by decide +kernel

/-- Settles O20: ENC is the common part of ENC and DEC in the forward direction; it undoes the backward one. -/
theorem encCommand : Obligations.EncCommand :=
  ⟨⟨rfl, rfl⟩, fun _ => cryptCommand_of_key false, fun _ => endsInFault_of_no_key fun _ => rfl,
    fun key b => crypt_crypt_not (keysched key) b true, crypt_zero_key_fixed_point, crypt_enc_example⟩

/-- Settles O21: DEC is the common part of ENC and DEC in the backward direction; the fixed point and the first example are
those of ENC read backwards. -/
theorem decCommand : Obligations.DecCommand :=
  ⟨⟨rfl, rfl⟩, fun _ => cryptCommand_of_key true, fun _ => endsInFault_of_no_key fun _ => rfl,
    fun key b => crypt_crypt_not (keysched key) b false, crypt_true_of_crypt_false crypt_zero_key_fixed_point,
    crypt_true_of_crypt_false crypt_enc_example, by decide +kernel⟩

end Sys2Proof.Machine
end

section
/-! The round unroller (43_cipher_engine.md rules R188 to R190): which of its steps a cycle takes. -/

namespace Sys2Proof.Machine

/-- An ENC or DEC in `IDLE` with a key starts with step C0, gives no response yet, and the port moves on. -/
theorem tick_of_crypt (u : Config.Unroll) {s : State} {cmd : Command} {rest : List PortIn}
    (hp : Claims.Presented s cmd rest) (hkv : s.kv = true) (hd : decode cmd.cw = .ok .enc ∨ decode cmd.cw = .ok .dec) :
    tick u s = .next (stepC0 cmd.a (decide (decode cmd.cw = .ok .dec)) s).silent.advance := by
  obtain ⟨hidle, hin⟩ := hp
  have hstart (dir : Bool) : startCrypt dir s = (stepC0 cmd.a dir s).silent := by
    rw [startCrypt, if_pos hkv, opA_of_command hin]
  rw [tick_of_command (now_of_command hin) hidle, commandStart]
  obtain hd | hd := hd <;> simp [hd, hstart, accepted]

theorem roundStep_of_crypt {s : State} {j : Fin 16} (hph : s.ph = .crypt) (hrc : s.rc.val = j.val) :
    roundStep s = stepC j s := by
  have hlt : s.rc.val < 16 := hrc ▸ j.isLt
  have hj : j = ⟨s.rc.val, hlt⟩ := Fin.ext hrc.symm
  rw [hj, roundStep, dif_pos hlt, hph]

theorem endStep_of_crypt {s : State} (hph : s.ph = .crypt) : endStep s = stepCend s := by
  rw [endStep, hph]

/-- Step C(j) where the entry that it reads holds a value: both halves come from the old ones. -/
theorem stepC_of_entry {s : State} {j : Fin 16} {k : Subkey}
    (hk : (if s.dir then s.ks[15 - j.val] else s.ks[j.val]) = some k) :
    stepC j s = { s with l := s.r, r := s.l ^^^ roundFunctionBits s.r k, rc := j.succ } := by
  rw [← getElem_subkeyIndex] at hk
  simp only [stepC, hk, entryValue_some, feistelRound_mk]

section
variable {s : State} (hph : s.ph = .crypt) (hrst : s.now ≠ .reset)
include hph hrst

/-- With rounds left, a step is C(j), whatever else the host drives. -/
theorem step_of_crypt_round {j : Fin 16} (hrc : s.rc.val = j.val) : step s = .next (stepC j s.hold.silent) := by
  have hbusy : s.ph ≠ .idle := by simp [hph]
  rw [step_of_busy hrst hbusy, (busyCycle_round hbusy (hrc ▸ j.isLt)).1]
  exact congrArg _ (roundStep_of_crypt hph hrc)

/-- After the sixteen rounds, a step is Cend. -/
theorem step_of_crypt_end (hrc : s.rc.val = 16) : step s = .next (stepCend s.hold.silent) := by
  have hbusy : s.ph ≠ .idle := by simp [hph]
  rw [step_of_busy hrst hbusy, (busyCycle_end hbusy hrc).1, endStep_of_crypt (s := s.hold.silent) hph]

end

/-- Settles O50: each cycle takes the one step that the phase and `RC` enable, and that step's update is the one stated. -/
theorem cryptSteps : Obligations.CryptSteps := by
  refine ⟨fun u s cmd rest hp hkv hd => ?c0, fun s hph hrst j hrc k hk => ?c, fun s hph hrst hrc => ?cend⟩
  case c0 =>
    have hrest : s.inputs.tail = rest := by rw [hp.2, List.tail_cons]
    refine ⟨_, tick_of_crypt u hp hkv hd, ?_, mergeBits_splitBits (hw := 32) (permuteBits 64 Rom.ip cmd.a)⟩
    rw [← hrest]
    rfl
  case c =>
    rw [step_of_crypt_round hph hrst hrc, stepC_of_entry (s := s.hold.silent) hk]
    rfl
  case cend => exact step_of_crypt_end hph hrst hrc

end Sys2Proof.Machine
end

section
/-! In which fault a command ends (60_exceptions.md rules R211, R212, R213, R215): the condition of each cause for each
instruction, from the results on which the functions of 40_primitives.md and 42_round_function.md give no value. -/

namespace Sys2Proof.Machine

/-- A function that gives a value except under `P`, and WIDTH under `P`, gives no other fault. -/
theorem error_iff_of_width {α : Type} {res : Except Cause α} {P : Prop} (hfit : ¬ P → ∃ q, res = .ok q)
    (hwide : P → res = .error .width) (c : Cause) : res = .error c ↔ c = .width ∧ P := by
  by_cases hP : P
  · simp [hwide hP, hP, eq_comm]
  · obtain ⟨q, hq⟩ := hfit hP
    simp [hq, hP]

theorem permute_error_iff {w : Nat} {table : List Nat} (hok : tableOk table w = true) (v : Word64) (c : Cause) :
    permute v w table = .error c ↔ c = .width ∧ 2 ^ w ≤ v.toNat :=
  error_iff_of_width (fun h => ⟨_, permute_of_fits hok (Nat.lt_of_not_le h)⟩) (permute_of_wide hok) c

/-- Every operand fits a table over 64 positions. -/
theorem permute_full_error_iff {table : List Nat} (hok : tableOk table 64 = true) (v : Word64) (c : Cause) :
    permute v 64 table = .error c ↔ c = .width ∧ False :=
  error_iff_of_width (fun _ => ⟨_, permute_of_fits hok v.isLt⟩) False.elim c

theorem split_error_iff (v : Word64) (hw : Nat) (c : Cause) :
    split v hw = .error c ↔ c = .width ∧ 2 ^ (2 * hw) ≤ v.toNat :=
  error_iff_of_width (fun h => ⟨_, split_of_fits (Nat.lt_of_not_le h)⟩) split_of_wide c

theorem merge_error_iff (a b : Word64) (hw : Nat) (c : Cause) :
    merge a b hw = .error c ↔ c = .width ∧ (2 ^ hw ≤ a.toNat ∨ 2 ^ hw ≤ b.toNat) :=
  error_iff_of_width (fun h => ⟨_, merge_of_fits (by omega) (by omega)⟩) merge_of_wide c

theorem substitute_error_iff (v : Word64) (j : Nat) (c : Cause) :
    substitute v j = .error c ↔ c = .width ∧ 64 ≤ v.toNat :=
  error_iff_of_width (fun h => ⟨_, substitute_of_fits j (Nat.lt_of_not_le h)⟩) (substitute_of_wide j) c

theorem rotateLeft_error_iff (v : Word64) (n : Nat) (c : Cause) :
    rotateLeft v n = .error c ↔ c = .width ∧ 2 ^ 28 ≤ v.toNat :=
  error_iff_of_width (fun h => ⟨_, rotateLeft_of_fits n (Nat.lt_of_not_le h)⟩) (rotateLeft_of_wide n) c

theorem roundFunction_error_iff (r k : Word64) (c : Cause) :
    roundFunction r k = .error c ↔ c = .width ∧ (2 ^ 32 ≤ r.toNat ∨ 2 ^ 48 ≤ k.toNat) :=
  error_iff_of_width (fun h => ⟨_, roundFunction_of_fits (by omega) (by omega)⟩) roundFunction_of_wide c

theorem raise_inj {s : State} {c c' : Cause} : s.raise c = s.raise c' ↔ c = c' :=
  ⟨fun h => by simpa using congrArg State.rsp h, congrArg _⟩

section
variable {i : Instr} {s : State}

theorem endsInFault_iff_exec {c : Cause} : Claims.EndsInFault i s c ↔ exec i s = .next (s.raise c) := by
  rw [Claims.EndsInFault, faulted_eq_raise]

theorem endsInFault_iff_of_raise {e : Cause} (hexec : exec i s = .next (s.raise e)) (c : Cause) :
    Claims.EndsInFault i s c ↔ c = e := by
  rw [endsInFault_iff_exec, hexec, Host.Outcome.next.injEq, raise_inj, eq_comm]

theorem not_endsInFault_of_ok {t : State} {q0 q1 : Word64} (hexec : exec i s = .next t)
    (hok : t.rsp = some { err := .ok, q0 := q0, q1 := q1 }) (c : Cause) : ¬ Claims.EndsInFault i s c := by
  rw [endsInFault_iff_exec, hexec, Host.Outcome.next.injEq]
  rintro rfl
  simp at hok

theorem endsInFault_iff_of_answer {res : Except Cause (Word64 × Word64)} (hexec : exec i s = answer res s) (c : Cause) :
    Claims.EndsInFault i s c ↔ res = .error c := by
  cases res with
  | ok q => exact iff_of_false (not_endsInFault_of_ok hexec (State.respond_rsp s q.1 q.2) c) nofun
  | error e => rw [endsInFault_iff_of_raise hexec, Except.error.injEq, eq_comm]

theorem endsInFault_iff_of_answerOne {res : Except Cause Word64} (hexec : exec i s = answerOne res s) (c : Cause) :
    Claims.EndsInFault i s c ↔ res = .error c := by
  cases res with
  | ok q => exact iff_of_false (not_endsInFault_of_ok hexec (State.respond_rsp s q 0#64) c) nofun
  | error e => rw [endsInFault_iff_of_raise hexec, Except.error.injEq, eq_comm]

theorem endsInFault_iff_of_crypt {dir : Bool} (hexec : exec i s = cryptCommand dir s) (c : Cause) :
    Claims.EndsInFault i s c ↔ c = .nokey ∧ s.kv = false := by
  obtain ⟨hkv, h⟩ | ⟨hkv, h⟩ := cryptCommand_cases dir s
  · simp [endsInFault_iff_of_raise (hexec.trans h), hkv]
  · simp [not_endsInFault_of_ok (hexec.trans h) (State.respond_rsp _ _ _), hkv]

end

/-- When an instruction ends in each of the four faults: the table of rule R211 for WIDTH, never for TABLE (rule R212), a
half width that no word has for ILLCMD (rule R96), ENC and DEC without a key for NOKEY (rule R215). -/
def FaultCondition (i : Instr) (s : State) : Cause → Prop
  | .width => i.WellFormed ∧ Claims.widthCondition s.opA.toNat s.opB.toNat i
  | .table => False
  | .illcmd => ¬ i.WellFormed
  | .nokey => (i = .enc ∨ i = .dec) ∧ s.kv = false

theorem faultCondition_iff_of_illFormed {i : Instr} (hwf : ¬ i.WellFormed) (s : State) (c : Cause) :
    FaultCondition i s c ↔ c = .illcmd := by
  have hkey : ¬ (i = .enc ∨ i = .dec) := by
    rintro (rfl | rfl) <;> exact hwf rfl
  cases c <;> simp [FaultCondition, hwf, hkey]

theorem faultCondition_iff_of_keyless {i : Instr} (hwf : i.WellFormed) (hkey : ¬ (i = .enc ∨ i = .dec)) (s : State)
    (c : Cause) : FaultCondition i s c ↔ c = .width ∧ Claims.widthCondition s.opA.toNat s.opB.toNat i := by
  have hwidth : FaultCondition i s .width ↔ Claims.widthCondition s.opA.toNat s.opB.toNat i := and_iff_right hwf
  cases c with
  | width => simpa using hwidth
  | table => simp [FaultCondition]
  | illcmd => simpa [FaultCondition] using hwf
  | nokey => simp [FaultCondition, hkey]

theorem faultCondition_iff_of_crypt {i : Instr} (hi : i = .enc ∨ i = .dec) (s : State) (c : Cause) :
    FaultCondition i s c ↔ c = .nokey ∧ s.kv = false := by
  have hwf : i.WellFormed := by
    rcases hi with rfl | rfl <;> rfl
  have hwidth : ¬ Claims.widthCondition s.opA.toNat s.opB.toNat i := by
    rcases hi with rfl | rfl <;> exact id
  cases c <;> simp [FaultCondition, hwf, hwidth, hi]

/-- A command with one result whose function faults exactly on the operands of its row of the table. -/
theorem endsInFault_iff_of_function {i : Instr} {s : State} {res : Except Cause Word64}
    (hexec : exec i s = answerOne res s) (hwf : i.WellFormed) (hkey : ¬ (i = .enc ∨ i = .dec)) {c : Cause}
    (hres : res = .error c ↔ c = .width ∧ Claims.widthCondition s.opA.toNat s.opB.toNat i) :
    Claims.EndsInFault i s c ↔ FaultCondition i s c := by
  rw [endsInFault_iff_of_answerOne hexec, hres, faultCondition_iff_of_keyless hwf hkey]

/-- A half width without a command word is ILLCMD and nothing else. -/
theorem endsInFault_iff_of_illFormed {i : Instr} {s : State} (hexec : exec i s = .next (s.raise .illcmd))
    (hwf : ¬ i.WellFormed) (c : Cause) : Claims.EndsInFault i s c ↔ FaultCondition i s c := by
  rw [endsInFault_iff_of_raise hexec, faultCondition_iff_of_illFormed hwf]

theorem wellFormed_split_iff (hw : BitVec 6) : (Instr.split hw).WellFormed ↔ legalHalfWidth hw := decide_eq_true_iff

theorem wellFormed_merge_iff (hw : BitVec 6) : (Instr.merge hw).WellFormed ↔ legalHalfWidth hw := decide_eq_true_iff

theorem endsInFault_split_iff (hw : BitVec 6) (s : State) (c : Cause) :
    Claims.EndsInFault (.split hw) s c ↔ FaultCondition (.split hw) s c := by
  by_cases hlegal : legalHalfWidth hw
  · rw [endsInFault_iff_of_answer (exec_split_of_legal hlegal s), split_error_iff,
      faultCondition_iff_of_keyless ((wellFormed_split_iff hw).2 hlegal) (by simp)]
    rfl
  · have hexec : exec (.split hw) s = .next (s.raise .illcmd) := if_neg hlegal
    exact endsInFault_iff_of_illFormed hexec (mt (wellFormed_split_iff hw).1 hlegal) c

theorem endsInFault_merge_iff (hw : BitVec 6) (s : State) (c : Cause) :
    Claims.EndsInFault (.merge hw) s c ↔ FaultCondition (.merge hw) s c := by
  by_cases hlegal : legalHalfWidth hw
  · exact endsInFault_iff_of_function (exec_merge_of_legal hlegal s) ((wellFormed_merge_iff hw).2 hlegal) (by simp)
      (merge_error_iff _ _ _ c)
  · have hexec : exec (.merge hw) s = .next (s.raise .illcmd) := if_neg hlegal
    exact endsInFault_iff_of_illFormed hexec (mt (wellFormed_merge_iff hw).1 hlegal) c

/-- The fault of every instruction, by its condition. -/
theorem endsInFault_iff (i : Instr) (s : State) (c : Cause) : Claims.EndsInFault i s c ↔ FaultCondition i s c := by
  cases i with
  | permIp => exact endsInFault_iff_of_function rfl rfl (by simp) (permute_full_error_iff tableOk_ip _ c)
  | permFp => exact endsInFault_iff_of_function rfl rfl (by simp) (permute_full_error_iff tableOk_fp _ c)
  | permPc1 => exact endsInFault_iff_of_function rfl rfl (by simp) (permute_full_error_iff tableOk_pc1 _ c)
  | permPc2 => exact endsInFault_iff_of_function rfl rfl (by simp) (permute_error_iff tableOk_pc2 _ c)
  | permE => exact endsInFault_iff_of_function rfl rfl (by simp) (permute_error_iff tableOk_e _ c)
  | permP => exact endsInFault_iff_of_function rfl rfl (by simp) (permute_error_iff tableOk_p _ c)
  | split hw => exact endsInFault_split_iff hw s c
  | merge hw => exact endsInFault_merge_iff hw s c
  | substS1 | substS2 | substS3 | substS4 | substS5 | substS6 | substS7 | substS8 =>
    exact endsInFault_iff_of_function rfl rfl (by simp) (substitute_error_iff _ _ c)
  | rotl1 | rotl2 => exact endsInFault_iff_of_function rfl rfl (by simp) (rotateLeft_error_iff _ _ c)
  | new =>
    rw [faultCondition_iff_of_keyless rfl (by simp)]
    exact iff_of_false (not_endsInFault_of_ok (t := newState s) rfl rfl c) And.right
  | frnd => exact endsInFault_iff_of_function rfl rfl (by simp) (roundFunction_error_iff _ _ c)
  | enc => rw [endsInFault_iff_of_crypt (dir := false) rfl, faultCondition_iff_of_crypt (.inl rfl)]
  | dec => rw [endsInFault_iff_of_crypt (dir := true) rfl, faultCondition_iff_of_crypt (.inr rfl)]

/-- A command that answers a fault has taken that fault and done nothing else. -/
theorem exec_fault {i : Instr} {s t : State} {rsp : Response} {c : Cause} (hexec : exec i s = .next t)
    (hrsp : t.rsp = some rsp) (herr : rsp.err = .fault c) : t = s.raise c ∧ Claims.EndsInFault i s c := by
  have ht : t = s.raise c := by
    obtain (⟨q0, q1, rfl⟩ | ⟨e, -, rfl⟩) | ⟨-, rfl⟩ | ⟨-, -, q, rfl⟩ := exec_inv hexec
    case inl.inr =>
      cases hrsp
      cases herr
      rfl
    all_goals
      cases hrsp
      cases herr
  exact ⟨ht, endsInFault_iff_exec.2 (ht ▸ hexec)⟩

/-- Settles O31: the condition of WIDTH is the table, and a command that answers a fault has only taken it. -/
theorem widthConditions : Obligations.WidthConditions := by
  intro i hwf s
  refine ⟨(endsInFault_iff i s .width).trans (and_iff_right hwf), fun t rsp hexec hrsp herr => ?_⟩
  rw [faulted_eq_raise]
  exact (exec_fault hexec hrsp herr).1

/-- Settles O34: the condition of NOKEY, in both directions. -/
theorem noKeyFault : Obligations.NoKeyFault := fun i s =>
  ⟨endsInFault_iff i s .nokey, fun _ _ hexec hrsp herr =>
    (endsInFault_iff i s .nokey).1 (exec_fault hexec hrsp herr).2⟩

end Sys2Proof.Machine
end

section
/-! Faults at the port (60_exceptions.md rules R212 to R217): a step answers a fault only when it accepts a command, and which
fault that is. -/

namespace Sys2Proof.Machine

theorem tableOk_eq_false {table : List Nat} {w : Nat} (h : ∃ p ∈ table, p < 1 ∨ w < p) : tableOk table w = false := by
  obtain ⟨p, hp, hrange⟩ := h
  rw [Bool.eq_false_iff]
  intro hok
  have := mem_range_of_tableOk hok hp
  omega

theorem decodePerm_wellFormed {sel : BitVec 6} {i : Instr} (h : decodePerm sel = .ok i) : i.WellFormed := by
  unfold decodePerm at h
  split at h <;> cases h <;> rfl

theorem decodeSubst_wellFormed {sel : BitVec 6} {i : Instr} (h : decodeSubst sel = .ok i) : i.WellFormed := by
  unfold decodeSubst at h
  split at h <;> cases h <;> rfl

theorem decodeRotl_wellFormed {sel : BitVec 6} {i : Instr} (h : decodeRotl sel = .ok i) : i.WellFormed := by
  unfold decodeRotl at h
  split at h <;> cases h <;> rfl

theorem decodeHalfWidth_wellFormed {mk : BitVec 6 → Instr} (hmk : ∀ hw, legalHalfWidth hw → (mk hw).WellFormed)
    {sel : BitVec 6} {i : Instr} (h : decodeHalfWidth mk sel = .ok i) : i.WellFormed := by
  unfold decodeHalfWidth at h
  split at h
  case isTrue hlegal =>
    cases h
    exact hmk sel hlegal
  case isFalse => cases h

theorem decodePlain_wellFormed {j : Instr} (hj : j.WellFormed) {sel : BitVec 6} {i : Instr}
    (h : decodePlain j sel = .ok i) : i.WellFormed := by
  unfold decodePlain at h
  split at h <;> cases h
  exact hj

/-- The decoder gives legal half widths only (rule R93). -/
theorem decode_wellFormed {cw : CmdWord} {i : Instr} (h : decode cw = .ok i) : i.WellFormed := by
  unfold decode at h
  split at h
  · cases h
  · split at h
    · exact decodePerm_wellFormed h
    · exact decodeHalfWidth_wellFormed (fun hw => (wellFormed_split_iff hw).2) h
    · exact decodeHalfWidth_wellFormed (fun hw => (wellFormed_merge_iff hw).2) h
    · exact decodeSubst_wellFormed h
    · exact decodeRotl_wellFormed h
    · exact decodePlain_wellFormed rfl h
    · exact decodePlain_wellFormed rfl h
    · exact decodePlain_wellFormed rfl h
    · exact decodePlain_wellFormed rfl h
    · cases h

/-- A command in progress ends without a fault. -/
theorem busyCycle_rsp {u : Config.Unroll} {s : State} (hb : s.ph ≠ .idle) {rsp : Response}
    (h : (busyCycle u s).rsp = some rsp) : rsp.err = .ok := by
  by_cases hrc : s.rc.val < 16
  · obtain ⟨-, -, -, hnone, -⟩ := busyCycle_round (u := u) hb hrc
    simp [hnone] at h
  · have hend : s.rc.val = 16 := by omega
    rw [(busyCycle_end (u := u) hb hend).1] at h
    cases hp : s.ph with
    | idle => exact absurd hp hb
    | keygen =>
      rw [endStep_of_keygen (s := s.hold.silent) hp] at h
      cases h
      rfl
    | crypt =>
      rw [endStep_of_crypt (s := s.hold.silent) hp] at h
      cases h
      rfl

/-- Why a command that the FCE accepts ends in a fault: its word is illegal, or its instruction ends in that fault. -/
def CommandFaults (cmd : Command) (s : State) (c : Cause) : Prop :=
  (c = .illcmd ∧ ∃ e, decode cmd.cw = .error e) ∨ ∃ i, decode cmd.cw = .ok i ∧ FaultCondition i s c

/-- A step that answers a fault has accepted a command and taken that fault, and nothing else has changed. -/
theorem step_fault {s t : State} {rsp : Response} {c : Cause} (hstep : step s = .next t) (hrsp : t.rsp = some rsp)
    (herr : rsp.err = .fault c) :
    ∃ cmd, s.now = .command cmd ∧ s.ph = .idle ∧ t = (s.raise c).advance ∧ CommandFaults cmd s c := by
  obtain ⟨-, rfl⟩ | ⟨-, hb, rfl⟩ | ⟨-, -, rfl⟩ | ⟨cmd, e, hn, hidle, hd, rfl⟩ | ⟨cmd, i, u, hn, hidle, hd, hexec, rfl⟩ :=
    commandStep_cases hstep
  · cases hrsp
  · simp [busyCycle_rsp hb hrsp] at herr
  · cases hrsp
  · cases hrsp
    cases herr
    exact ⟨cmd, hn, hidle, rfl, .inl ⟨rfl, e, hd⟩⟩
  · obtain ⟨rfl, hfault⟩ := exec_fault hexec hrsp herr
    exact ⟨cmd, hn, hidle, rfl, .inr ⟨i, hd, (endsInFault_iff i s c).1 hfault⟩⟩

/-- Settles O32: TABLE has no condition under which an instruction ends in it, and an illegal word is not TABLE. -/
theorem tableFaultNeverRaised : Obligations.TableFaultNeverRaised := by
  refine ⟨fun v w table h => permute_of_bad_table (tableOk_eq_false h), fun i s t rsp hexec hrsp herr => ?command,
    fun s t rsp hstep hrsp herr => ?step, rfl, rfl, rfl, rfl, rfl, rfl⟩
  case command => exact (endsInFault_iff i s .table).1 (exec_fault hexec hrsp herr).2
  case step =>
    obtain ⟨cmd, -, -, -, ⟨hne, -⟩ | ⟨i, -, hfalse⟩⟩ := step_fault hstep hrsp herr
    · cases hne
    · exact hfalse

theorem step_of_illegal {s : State} {cmd : Command} {rest : List PortIn} (hp : Claims.Presented s cmd rest)
    (hd : ∀ i : Instr, decode cmd.cw ≠ .ok i) : step s = .next { Claims.faulted s .illcmd with inputs := rest } :=
  step_of_not_decoded hp fun ⟨i, hi⟩ => hd i hi

/-- Settles O33: an instruction ends in ILLCMD only for an illegal half width, and the decoder gives none. -/
theorem illegalCommandFault : Obligations.IllegalCommandFault := by
  refine fun s cmd rest hp => ⟨step_of_illegal hp, fun i hd t rsp hstep hrsp herr => ?_⟩
  obtain ⟨cmd', hn, -, -, hcause⟩ := step_fault hstep hrsp herr
  obtain rfl : cmd = cmd' := by simpa [now_of_command hp.2] using hn
  obtain ⟨-, e, he⟩ | ⟨j, hj, hillFormed⟩ := hcause
  · simp [hd] at he
  · exact hillFormed (decode_wellFormed hj)

/-- The bit of `FLT` of a cause is one below its code (rule R216). -/
theorem causeBit_add_one (c : Cause) : causeBit c + 1 = (errCode (.fault c)).toNat := by
  cases c <;> rfl

theorem raise_advance_eq {s : State} {cmd : Command} {rest : List PortIn} (hin : s.inputs = .command cmd :: rest)
    (c : Cause) : (s.raise c).advance = { Claims.faulted s c with inputs := rest } := by
  rw [faulted_eq_raise, State.advance, State.raise_inputs, hin, List.tail_cons]

theorem cmdReady_of_idle {s : State} (hidle : s.ph = .idle) (hrst : s.inputs.head? ≠ some .reset) :
    s.cmdReady = true := by
  have hnow : s.now ≠ .reset := by
    cases hin : s.inputs with
    | nil => simp [State.now, hin]
    | cons x xs => simpa [State.now, hin] using hrst
  simp [State.cmdReady, busy, hidle, hnow]

/-- Settles O35: the step has only taken the fault and moved the port on, so what is left is the bit that the fault sets. -/
theorem faultEntry : Obligations.FaultEntry := by
  intro s cmd rest t c q0 q1 ⟨hidle, hin⟩ hstep hrsp
  obtain ⟨-, -, -, rfl, -⟩ := step_fault hstep hrsp rfl
  refine ⟨raise_advance_eq hin c, hidle, fun hrst => cmdReady_of_idle hidle (by simpa [hin] using hrst), fun n hn => ?bit⟩
  case bit =>
    rw [State.advance_flt, State.raise_flt, setFaultBit_getLsbD c s.flt n hn, ← causeBit_add_one]
    simp

/-- A presented instruction that ends in a fault: the step takes the fault and the port moves on. -/
theorem step_of_endsInFault {s : State} {cmd : Command} {rest : List PortIn} {i : Instr} {c : Cause}
    (hp : Claims.Presented s cmd rest) (hd : decode cmd.cw = .ok i) (hfault : Claims.EndsInFault i s c) :
    step s = .next { Claims.faulted s c with inputs := rest } := by
  obtain ⟨hidle, hin⟩ := hp
  rw [step, commandStep_of_decoded hidle (now_of_command hin) hd, endsInFault_iff_exec.1 hfault, accepted,
    raise_advance_eq hin]

/-- Settles O36: the illegal word, the missing key and the bad table are faults whatever the operand is, and one wide operand
is WIDTH whatever the other one is. -/
theorem faultPriority : Obligations.FaultPriority := by
  refine ⟨fun s cmd rest => step_of_illegal, fun s cmd rest hp hd hkv => ?nokey,
    fun v w table hbad _ => permute_of_bad_table (tableOk_eq_false hbad), fun s hw hlegal hA _ => ?merge,
    fun s hA _ => ?frnd⟩
  case nokey =>
    have hfault {i : Instr} (hi : i = .enc ∨ i = .dec) : Claims.EndsInFault i s .nokey :=
      (endsInFault_iff i s .nokey).2 ⟨hi, hkv⟩
    rcases hd with hd | hd
    · exact step_of_endsInFault hp hd (hfault (.inl rfl))
    · exact step_of_endsInFault hp hd (hfault (.inr rfl))
  case merge => exact (endsInFault_iff _ s .width).2 ⟨(wellFormed_merge_iff hw).2 hlegal, .inl hA⟩
  case frnd => exact (endsInFault_iff _ s .width).2 ⟨rfl, .inl hA⟩

theorem errCode_injective : Function.Injective errCode := by
  rintro (_ | c) (_ | c')
  · exact fun _ => rfl
  · cases c' <;> exact nofun
  · cases c <;> exact nofun
  · cases c <;> cases c' <;> simp [errCode]

/-- Settles O38: the codes are read off their table; the bit of `STAT` is the bit of `FLT` two places up. -/
theorem faultCodes : Obligations.FaultCodes := by
  refine ⟨rfl, rfl, rfl, rfl, rfl, fun _ _ h => errCode_injective h, fun e => ?bound, causeBit_add_one,
    fun s c => stat_getLsbD_add_two s (causeBit c)⟩
  case bound =>
    rcases e with _ | c
    · decide
    · cases c <;> decide

end Sys2Proof.Machine
end

section
/-! After a fault (60_exceptions.md rule R220): the answer to a command does not depend on `FLT` or on the last response, and
the bits of `FLT` stay set until reset. -/

namespace Sys2Proof.Machine

/-- A command served in `IDLE` leaves the key store and its flag as they are; NEW puts the schedule of its key there. -/
theorem exec_key {i : Instr} {s t : State} (h : exec i s = .next t) :
    (t.ks, t.kv) = if i = .new then (fullStore (keysched s.opA), true) else (s.ks, s.kv) := by
  by_cases hi : i = .new
  · subst hi
    cases h
    rfl
  · obtain (⟨q0, q1, rfl⟩ | ⟨e, -, rfl⟩) | ⟨rfl, -⟩ | ⟨-, -, q, rfl⟩ := exec_inv h
    case inr.inl => exact absurd rfl hi
    all_goals simp [hi]

theorem transact_key {cmd : Command} {s t : State} (hidle : s.ph = .idle) (h : transact cmd s = .next t) :
    (t.ks, t.kv) = if decode cmd.cw = .ok .new then (fullStore (keysched cmd.a), true) else (s.ks, s.kv) := by
  cases hd : decode cmd.cw with
  | error e =>
    rw [transact_of_illegal hidle hd] at h
    cases h
    simp
  | ok i =>
    obtain ⟨u, hu⟩ := exec_next i (s.present cmd)
    rw [transact_of_decoded hidle hd, hu] at h
    cases h
    simpa using exec_key hu

/-- Two states in `IDLE` with the same key store and flag answer a command alike and have the same key store after it. -/
theorem transact_congr {s s' : State} (hidle : s.ph = .idle) (hidle' : s'.ph = .idle) (hks : s.ks = s'.ks)
    (hkv : s.kv = s'.kv) (cmd : Command) :
    ∃ u v, transact cmd s = .next u ∧ transact cmd s' = .next v ∧ u.rsp = v.rsp ∧ u.ks = v.ks ∧ u.kv = v.kv := by
  obtain ⟨u, v, hu, hv, hrsp, -⟩ := responseIsFunctionOfCommandAndKey (s.present cmd) (s'.present cmd) cmd [] []
    ⟨hidle, State.present_inputs s cmd⟩ ⟨hidle', State.present_inputs s' cmd⟩ fun _ => ⟨hkv, hks⟩
  have hkey : (u.ks, u.kv) = (v.ks, v.kv) := by
    rw [transact_key hidle hu, transact_key hidle' hv, hks, hkv]
  exact ⟨u, v, hu, hv, hrsp, congrArg Prod.fst hkey, congrArg Prod.snd hkey⟩

theorem roundStep_flt (s : State) : (roundStep s).flt = s.flt := by
  unfold roundStep
  split
  · split <;> rfl
  · rfl

theorem roundSteps_flt (n : Nat) (s : State) : (roundSteps n s).flt = s.flt := by
  induction n generalizing s with
  | zero => rfl
  | succ n ih => exact (ih (roundStep s)).trans (roundStep_flt s)

theorem endStep_flt (s : State) : (endStep s).flt = s.flt := by
  unfold endStep
  split <;> rfl

@[simp] theorem busyCycle_flt (u : Config.Unroll) (s : State) : (busyCycle u s).flt = s.flt := by
  unfold busyCycle internalStep
  split
  · exact roundSteps_flt _ _
  · exact endStep_flt _

/-- A command leaves `FLT` as it is or sets the bit of one cause. -/
theorem exec_flt {i : Instr} {s t : State} (h : exec i s = .next t) :
    t.flt = s.flt ∨ ∃ c, t.flt = setFaultBit c s.flt := by
  obtain (⟨q0, q1, rfl⟩ | ⟨e, -, rfl⟩) | ⟨-, rfl⟩ | ⟨-, -, q, rfl⟩ := exec_inv h
  case inl.inr => exact .inr ⟨e, rfl⟩
  all_goals exact .inl rfl

/-- A step without reset leaves `FLT` as it is or sets the bit of one cause. -/
theorem step_flt {s t : State} (hrst : s.now ≠ .reset) (h : step s = .next t) :
    t.flt = s.flt ∨ ∃ c, t.flt = setFaultBit c s.flt := by
  obtain ⟨hn, -⟩ | ⟨-, -, rfl⟩ | ⟨-, -, rfl⟩ | ⟨cmd, e, -, -, -, rfl⟩ | ⟨cmd, i, u, -, -, -, hexec, rfl⟩ :=
    commandStep_cases h
  · exact absurd hn hrst
  · exact .inl (busyCycle_flt .one s)
  · exact .inl rfl
  · exact .inr ⟨.illcmd, rfl⟩
  · simpa using exec_flt hexec

theorem step_of_reset {s : State} (h : s.now = .reset) : step s = .next s.resetNow := by
  simp [step, commandStep, portCycle, h]

/-- Settles O37: a fault changes neither the phase nor the key store, which are all that the answers depend on. -/
theorem faultsRepeatAndStick : Obligations.FaultsRepeatAndStick := by
  refine ⟨fun s t cmd c q0 q1 hidle hfault hrsp => ?repeated, fun s t hrst hstep n hn hbit => ?sticky,
    fun s hrst => ⟨s.resetNow, step_of_reset hrst, State.resetNow_flt s⟩⟩
  case repeated =>
    obtain ⟨-, -, -, rfl, -⟩ := step_fault hfault hrsp rfl
    have hsame := transact_congr (s := ((s.present cmd).raise c).advance) (s' := s) hidle hidle rfl rfl
    obtain ⟨u, v, hu, hv, huv, -⟩ := hsame cmd
    cases hfault.symm.trans hv
    exact ⟨⟨u, hu, huv⟩, hsame⟩
  case sticky =>
    obtain hflt | ⟨c, hflt⟩ := step_flt hrst hstep
    · rw [hflt, hbit]
    · rw [hflt, setFaultBit_getLsbD c s.flt n hn, hbit, Bool.true_or]

end Sys2Proof.Machine
end

section
/-! Reset in the middle of a command (70_reset_and_hazards.md rule R252): it wins over whatever else the port and the phase
would call for. -/

namespace Sys2Proof.Machine

theorem now_of_reset {s : State} {rest : List PortIn} (hin : s.inputs = .reset :: rest) : s.now = .reset := by
  rw [State.now, hin, List.headD_cons]

theorem resetNow_of_inputs {s : State} {x : PortIn} {rest : List PortIn} (hin : s.inputs = x :: rest) :
    s.resetNow = { State.reset with inputs := rest } := by
  rw [State.resetNow, hin, List.tail_cons]

theorem cmdReady_of_reset {s : State} (hnow : s.now = .reset) : s.cmdReady = false := by
  simp [State.cmdReady, hnow]

/-- Settles O40: a step and a clock cycle both answer reset with `resetNow`, in which only the rest of the port is left. -/
theorem resetAbandonsCommand : Obligations.ResetAbandonsCommand := by
  intro s rest hin
  have hnow : s.now = .reset := now_of_reset hin
  rw [← resetNow_of_inputs hin]
  exact ⟨cmdReady_of_reset hnow, step_of_reset hnow, fun _ => tick_of_reset hnow⟩

end Sys2Proof.Machine
end

section
/-! The decoder and the encoder undo each other (30_encoding.md rules R91 to R93, R98): which word each of the decoder's
tables has read. -/

namespace Sys2Proof

/-- Settles O27: a word without a half width is evaluated; for SPLIT and MERGE the fields of the word are the fields it was
made of, and a well-formed half width is a legal one. -/
theorem decodeEncode : Obligations.DecodeEncode := by
  intro i hwf
  cases i with
  | split hw => exact (Machine.hasWord_split ((Machine.wellFormed_split_iff hw).1 hwf)).1
  | merge hw => exact (Machine.hasWord_merge ((Machine.wellFormed_merge_iff hw).1 hwf)).1
  | permIp | permFp | permPc1 | permPc2 | permE | permP => rfl
  | substS1 | substS2 | substS3 | substS4 | substS5 | substS6 | substS7 | substS8 => rfl
  | rotl1 | rotl2 | new | frnd | enc | dec => rfl

theorem encode_of_decodePerm {sel : BitVec 6} {i : Instr} (h : decodePerm sel = .ok i) : encode i = wordOf 0x1#4 sel := by
  rw [decodePerm] at h
  split at h <;> cases h <;> exact congrArg (wordOf 0x1#4) (BitVec.eq_of_toNat_eq (Eq.symm ‹_›))

theorem encode_of_decodeSubst {sel : BitVec 6} {i : Instr} (h : decodeSubst sel = .ok i) :
    encode i = wordOf 0x4#4 sel := by
  rw [decodeSubst] at h
  split at h <;> cases h <;> exact congrArg (wordOf 0x4#4) (BitVec.eq_of_toNat_eq (Eq.symm ‹_›))

theorem encode_of_decodeRotl {sel : BitVec 6} {i : Instr} (h : decodeRotl sel = .ok i) : encode i = wordOf 0x5#4 sel := by
  rw [decodeRotl] at h
  split at h <;> cases h <;> exact congrArg (wordOf 0x5#4) (BitVec.eq_of_toNat_eq (Eq.symm ‹_›))

theorem eq_of_decodeHalfWidth {mk : BitVec 6 → Instr} {sel : BitVec 6} {i : Instr}
    (h : decodeHalfWidth mk sel = .ok i) : mk sel = i := by
  rw [decodeHalfWidth] at h
  split at h <;> cases h
  rfl

theorem eq_of_decodePlain {j : Instr} {sel : BitVec 6} {i : Instr} (h : decodePlain j sel = .ok i) :
    j = i ∧ sel = 0#6 := by
  rw [decodePlain] at h
  split at h <;> cases h
  exact ⟨rfl, ‹_›⟩

/-- An instruction without a field, whose word has `SEL` = 0. -/
theorem encode_of_decodePlain {j : Instr} {op : BitVec 4} (hj : encode j = wordOf op 0#6) {sel : BitVec 6} {i : Instr}
    (h : decodePlain j sel = .ok i) : encode i = wordOf op sel := by
  obtain ⟨rfl, rfl⟩ := eq_of_decodePlain h
  exact hj

/-- The table that `OP` chooses has read `SEL`. -/
theorem encode_of_decode {cw : CmdWord} {i : Instr} (h : decode cw = .ok i) : encode i = cw := by
  unfold decode at h
  split at h
  case isTrue => cases h
  case isFalse hz =>
    rw [eq_wordOf (not_not.1 hz)]
    have hop {op : BitVec 4} (hop : (fieldOp cw).toNat = op.toNat) (he : encode i = wordOf op (fieldSel cw)) :
        encode i = wordOf (fieldOp cw) (fieldSel cw) := BitVec.eq_of_toNat_eq hop ▸ he
    split at h
    case h_1 e => exact hop (op := 1#4) e (encode_of_decodePerm h)
    case h_2 e => exact hop (op := 2#4) e (eq_of_decodeHalfWidth h ▸ rfl)
    case h_3 e => exact hop (op := 3#4) e (eq_of_decodeHalfWidth h ▸ rfl)
    case h_4 e => exact hop (op := 4#4) e (encode_of_decodeSubst h)
    case h_5 e => exact hop (op := 5#4) e (encode_of_decodeRotl h)
    case h_6 e => exact hop (op := 6#4) e (encode_of_decodePlain rfl h)
    case h_7 e => exact hop (op := 7#4) e (encode_of_decodePlain rfl h)
    case h_8 e => exact hop (op := 8#4) e (encode_of_decodePlain rfl h)
    case h_9 e => exact hop (op := 9#4) e (encode_of_decodePlain rfl h)
    case h_10 => cases h

/-- Settles O28: the decoder has read the two fields that the encoder writes, and `Z` is 0 in both. -/
theorem encodeDecode : Obligations.EncodeDecode := fun _ _ h => ⟨Machine.decode_wellFormed h, encode_of_decode h⟩

/-- Settles O30: each word is that of its instruction. -/
theorem sanityWords : Obligations.SanityWords :=
  ⟨decodeEncode .permIp rfl, decodeEncode .permP rfl, decodeEncode (.split 28#6) rfl, decodeEncode (.merge 32#6) rfl,
    decodeEncode .substS8 rfl, decodeEncode .rotl2 rfl, decodeEncode .new rfl, decodeEncode .frnd rfl,
    decodeEncode .enc rfl, decodeEncode .dec rfl⟩

end Sys2Proof
end

section
/-! The invariant of the FCE (10_state.md rules R24 to R33, 41_key_schedule.md rule R153, 43_cipher_engine.md rule R189):
reset establishes it, and each thing that a cycle can do keeps it. -/

namespace Sys2Proof.Machine

theorem inv_iff_of_idle {s : State} (hph : s.ph = .idle) : s.Inv ↔ s.flt.getLsbD 1 = false ∧ s.IdleInv := by
  rw [State.Inv, hph]

theorem inv_iff_of_keygen {s : State} (hph : s.ph = .keygen) : s.Inv ↔ s.flt.getLsbD 1 = false ∧ s.KeygenInv := by
  rw [State.Inv, hph]

theorem inv_iff_of_crypt {s : State} (hph : s.ph = .crypt) : s.Inv ↔ s.flt.getLsbD 1 = false ∧ s.CryptInv := by
  rw [State.Inv, hph]

/-- The state with other values on the two sides of the port. -/
def State.withPort (s : State) (xs : List PortIn) (rsp : Option Response) : State := { s with inputs := xs, rsp := rsp }

theorem respond_eq_withPort (s : State) (q0 q1 : Word64) :
    s.respond q0 q1 = s.withPort s.inputs (some { err := .ok, q0 := q0, q1 := q1 }) := rfl

theorem waitCycle_eq_withPort (s : State) : waitCycle s = s.withPort s.inputs.tail none := rfl

theorem advance_eq_withPort (s : State) : s.advance = s.withPort s.inputs.tail s.rsp := rfl

theorem hold_silent_eq_withPort (s : State) : s.hold.silent = s.withPort (heldInputs s.inputs) none := rfl

/-- The invariant says nothing of the port. -/
theorem inv_withPort {s : State} (h : s.Inv) (xs : List PortIn) (rsp : Option Response) : (s.withPort xs rsp).Inv := h

theorem resetNow_inv (s : State) : s.resetNow.Inv :=
  (inv_iff_of_idle rfl).2 ⟨by simp, rfl, rfl, rfl, rfl, rfl, rfl, nofun, fun _ => rfl⟩

/-- Settles O42: the state after reset is what `rst` leaves with nothing on the port. -/
theorem invariantAtReset : Obligations.InvariantAtReset := resetNow_inv State.reset

theorem setFaultBit_table_bit {c : Cause} (hc : c ≠ .table) (flt : BitVec 4) :
    (setFaultBit c flt).getLsbD 1 = flt.getLsbD 1 := by
  rw [setFaultBit_getLsbD c flt 1 (by decide)]
  cases c with
  | table => exact absurd rfl hc
  | width | illcmd | nokey => exact Bool.or_false _

/-- A fault sets a bit of `FLT`, and only TABLE sets the one the invariant speaks of. -/
theorem raise_inv {s : State} {c : Cause} (hc : c ≠ .table) (h : s.Inv) : (s.raise c).Inv :=
  ⟨(setFaultBit_table_bit hc s.flt).trans h.1, h.2⟩

theorem newState_inv {s : State} (hph : s.ph = .idle) (h : s.Inv) : (newState s).Inv := by
  obtain ⟨hflt, hl, hr, -, -, -, hdir, -⟩ := (inv_iff_of_idle hph).1 h
  exact (inv_iff_of_idle rfl).2 ⟨hflt, hl, hr, rfl, rfl, rfl, hdir, fun _ => ⟨s.opA, rfl⟩, nofun⟩

theorem endCrypt_inv {s : State} (hflt : s.flt.getLsbD 1 = false) (hc : s.c = 0#28) (hd : s.d = 0#28)
    (hkv : s.kv = true) (hkeyed : s.Keyed) : s.endCrypt.Inv :=
  (inv_iff_of_idle rfl).2 ⟨hflt, rfl, rfl, hc, hd, rfl, rfl, fun _ => hkeyed, fun h => by simp [hkv] at h⟩

/-- Every command served whole in `IDLE`. -/
theorem exec_keeps_inv {i : Instr} {s t : State} (hph : s.ph = .idle) (h : s.Inv) (hexec : exec i s = .next t) :
    t.Inv := by
  obtain (⟨q0, q1, rfl⟩ | ⟨e, he, rfl⟩) | ⟨-, rfl⟩ | ⟨-, hkv, q, rfl⟩ := exec_inv hexec
  · exact respond_eq_withPort s q0 q1 ▸ inv_withPort h _ _
  · exact raise_inv he h
  · exact newState_inv hph h
  · obtain ⟨hflt, -, -, hc, hd, -, -, hkeyed, -⟩ := (inv_iff_of_idle hph).1 h
    exact endCrypt_inv hflt hc hd hkv (hkeyed hkv)

/-- The carry state and the key store of phase `KEYGEN` at round `RC`, for a given key: `C ‖ D` is `CD_RC`, and the entries
below `RC` are the key's, the others hold no value (log entry 5). -/
def KeygenAt (key : Word64) (s : State) : Prop :=
  mergeBits s.c s.d = carryState key s.rc.val ∧
    ∀ i : Fin 16, s.ks[i] = if i.val < s.rc.val then some (keysched key)[i] else none

theorem stepK0_keygenAt (key : Word64) (s : State) : KeygenAt key (stepK0 key s) :=
  ⟨mergeBits_splitBits (hw := 28) (permuteBits 56 Rom.pc1 key), fun i => emptyStore_getElem i i.isLt⟩

theorem stepK_keygenAt {key : Word64} {s : State} {i : Fin 16} (hrc : s.rc.val = i.val) (h : KeygenAt key s) :
    KeygenAt key (stepK i s) := by
  obtain ⟨hcd, hks⟩ := h
  have hcd' : mergeBits (stepK i s).c (stepK i s).d = carryState key (i.val + 1) := by
    rw [carryState_succ, ← hrc, ← hcd, carryRound_mergeBits, hrc]
    rfl
  refine ⟨hcd', fun j => ?_⟩
  have hwritten : (stepK i s).ks[j] = if i.val = j.val then some (keysched key)[i] else s.ks[j] := by
    have hkey : (keysched key)[i] = subkeyOf (carryState key (i.val + 1)) := keysched_getElem key i.val i.isLt
    rw [hkey, ← hcd']
    exact storeEntry_getElem s.ks i _ j j.isLt
  have hrc' : (stepK i s).rc.val = i.val + 1 := rfl
  rw [hwritten, hks j, hrc', hrc]
  by_cases hij : i.val = j.val
  · obtain rfl := Fin.ext hij
    rw [if_pos rfl, if_pos (by omega)]
  · rw [if_neg hij]
    exact if_congr (by omega) rfl rfl

/-- At `RC` = 16 the key store holds the whole schedule. -/
theorem KeygenAt.ks_eq {key : Word64} {s : State} (h : KeygenAt key s) (hrc : s.rc.val = 16) :
    s.ks = fullStore (keysched key) :=
  eq_fullStore fun i => (h.2 i).trans (if_pos (i.isLt.trans_eq hrc.symm))

theorem stepK0_inv {s : State} (key : Word64) (hph : s.ph = .idle) (h : s.Inv) : (stepK0 key s).Inv := by
  obtain ⟨hflt, hl, hr, -, -, -, hdir, -⟩ := (inv_iff_of_idle hph).1 h
  exact (inv_iff_of_keygen rfl).2 ⟨hflt, hl, hr, hdir, rfl, key, stepK0_keygenAt key s⟩

theorem stepK_inv {s : State} {i : Fin 16} (hph : s.ph = .keygen) (hrc : s.rc.val = i.val) (h : s.Inv) :
    (stepK i s).Inv := by
  obtain ⟨hflt, hl, hr, hdir, hkv, key, hkey⟩ := (inv_iff_of_keygen hph).1 h
  exact (inv_iff_of_keygen (s := stepK i s) hph).2 ⟨hflt, hl, hr, hdir, hkv, key, stepK_keygenAt hrc hkey⟩

theorem stepKend_inv {s : State} (hph : s.ph = .keygen) (hrc : s.rc.val = 16) (h : s.Inv) : (stepKend s).Inv := by
  obtain ⟨hflt, hl, hr, hdir, -, key, hkey⟩ := (inv_iff_of_keygen hph).1 h
  have hks : s.ks = fullStore (keysched key) := KeygenAt.ks_eq (s := s) hkey hrc
  exact (inv_iff_of_idle rfl).2 ⟨hflt, hl, hr, rfl, rfl, rfl, hdir, fun _ => ⟨key, hks⟩, nofun⟩

/-- The halves of phase `CRYPT` at round `RC`, for a given block: `(L_RC, R_RC)` under the schedule in the key store. -/
def CryptAt (block : Word64) (s : State) : Prop := (s.l, s.r) = halvesAfter s.schedule s.dir block s.rc.val

theorem stepC0_cryptAt (block : Word64) (dir : Bool) (s : State) : CryptAt block (stepC0 block dir s) := rfl

theorem stepC_cryptAt {block : Word64} {s : State} {j : Fin 16} (hrc : s.rc.val = j.val) (h : CryptAt block s) :
    CryptAt block (stepC j s) := by
  have hkey : entryValue (subkeyIndex s.dir j) s.ks[subkeyIndex s.dir j] = s.schedule[subkeyIndex s.dir j] :=
    (schedule_getElem s _ (subkeyIndex s.dir j).isLt).symm
  calc ((stepC j s).l, (stepC j s).r)
      = feistelRound s.schedule[subkeyIndex s.dir j] (s.l, s.r) := by rw [← hkey]; rfl
    _ = halvesAfter s.schedule s.dir block (j.val + 1) := by rw [halvesAfter_succ, ← hrc, ← h]

theorem stepC0_inv {s : State} (block : Word64) (dir : Bool) (hph : s.ph = .idle) (hkv : s.kv = true) (h : s.Inv) :
    (stepC0 block dir s).Inv := by
  obtain ⟨hflt, -, -, hc, hd, -, -, hkeyed, -⟩ := (inv_iff_of_idle hph).1 h
  exact (inv_iff_of_crypt rfl).2 ⟨hflt, hc, hd, hkv, hkeyed hkv, block, stepC0_cryptAt block dir s⟩

theorem stepC_inv {s : State} {j : Fin 16} (hph : s.ph = .crypt) (hrc : s.rc.val = j.val) (h : s.Inv) :
    (stepC j s).Inv := by
  obtain ⟨hflt, hc, hd, hkv, hkeyed, block, hblock⟩ := (inv_iff_of_crypt hph).1 h
  exact (inv_iff_of_crypt (s := stepC j s) hph).2 ⟨hflt, hc, hd, hkv, hkeyed, block, stepC_cryptAt hrc hblock⟩

theorem stepCend_inv {s : State} (hph : s.ph = .crypt) (h : s.Inv) : (stepCend s).Inv := by
  obtain ⟨hflt, hc, hd, hkv, hkeyed, -⟩ := (inv_iff_of_crypt hph).1 h
  exact endCrypt_inv hflt hc hd hkv hkeyed

theorem roundStep_of_done {s : State} (hrc : s.rc.val = 16) : roundStep s = s := by
  rw [roundStep, dif_neg (by omega)]

theorem roundStep_of_idle {s : State} (hph : s.ph = .idle) : roundStep s = s := by
  rw [roundStep, hph, dite_eq_ite, ite_self]

theorem roundStep_keygen_cases {s : State} (hph : s.ph = .keygen) :
    (∃ i : Fin 16, s.rc.val = i.val ∧ roundStep s = stepK i s) ∨ roundStep s = s := by
  by_cases hrc : s.rc.val < 16
  · exact .inl ⟨⟨s.rc.val, hrc⟩, rfl, roundStep_of_keygen hph rfl⟩
  · exact .inr (roundStep_of_done (by omega))

theorem roundStep_crypt_cases {s : State} (hph : s.ph = .crypt) :
    (∃ j : Fin 16, s.rc.val = j.val ∧ roundStep s = stepC j s) ∨ roundStep s = s := by
  by_cases hrc : s.rc.val < 16
  · exact .inl ⟨⟨s.rc.val, hrc⟩, rfl, roundStep_of_crypt hph rfl⟩
  · exact .inr (roundStep_of_done (by omega))

theorem roundStep_inv {s : State} (h : s.Inv) : (roundStep s).Inv := by
  cases hph : s.ph with
  | idle => rwa [roundStep_of_idle hph]
  | keygen =>
    obtain ⟨i, hrc, e⟩ | e := roundStep_keygen_cases hph
    · exact e ▸ stepK_inv hph hrc h
    · rwa [e]
  | crypt =>
    obtain ⟨j, hrc, e⟩ | e := roundStep_crypt_cases hph
    · exact e ▸ stepC_inv hph hrc h
    · rwa [e]

/-- What one round step keeps, the rounds of a cycle keep. -/
theorem roundSteps_keeps {P : State → Prop} (hkeep : ∀ s, P s → P (roundStep s)) (n : Nat) {s : State} (h : P s) :
    P (roundSteps n s) := by
  induction n generalizing s with
  | zero => exact h
  | succ n ih => exact ih (hkeep s h)

theorem endStep_inv {s : State} (hrc : s.rc.val = 16) (h : s.Inv) : (endStep s).Inv := by
  cases hph : s.ph with
  | idle => rwa [endStep, hph]
  | keygen => exact endStep_of_keygen hph ▸ stepKend_inv hph hrc h
  | crypt => exact endStep_of_crypt hph ▸ stepCend_inv hph h

theorem busyCycle_inv (u : Config.Unroll) {s : State} (hbusy : s.ph ≠ .idle) (h : s.Inv) : (busyCycle u s).Inv := by
  by_cases hrc : s.rc.val < 16
  · rw [(busyCycle_round hbusy hrc).1, hold_silent_eq_withPort]
    exact roundSteps_keeps (P := State.Inv) (fun _ => roundStep_inv) u.rounds (inv_withPort h _ _)
  · have hend : s.rc.val = 16 := by omega
    rw [(busyCycle_end hbusy hend).1, hold_silent_eq_withPort]
    exact endStep_inv (s := s.withPort _ none) hend (inv_withPort h _ _)

theorem commandStart_of_new {cmd : Command} (hd : decode cmd.cw = .ok .new) (s : State) :
    commandStart cmd s = .next (stepK0 s.opA s).silent := by
  rw [commandStart, hd]

theorem commandStart_of_crypt {cmd : Command} {s : State} (hkv : s.kv = true)
    (hd : decode cmd.cw = .ok .enc ∨ decode cmd.cw = .ok .dec) :
    commandStart cmd s = .next (stepC0 s.opA (decide (decode cmd.cw = .ok .dec)) s).silent := by
  have hstart (dir : Bool) : startCrypt dir s = (stepC0 s.opA dir s).silent := if_pos hkv
  obtain hd | hd := hd <;> simp [commandStart, hd, hstart]

/-- A command that starts no rounds is served whole in the cycle of acceptance. -/
theorem commandStart_eq_commandWhole {cmd : Command} {s : State} (hnew : decode cmd.cw ≠ .ok .new)
    (hkey : s.kv = false ∨ decode cmd.cw ≠ .ok .enc ∧ decode cmd.cw ≠ .ok .dec) :
    commandStart cmd s = commandWhole cmd s := by
  have hnokey (dir : Bool) (hkv : s.kv = false) : .next (startCrypt dir s) = cryptCommand dir s := by
    simp [startCrypt, cryptCommand, hkv]
  cases hd : decode cmd.cw with
  | error e => simp only [commandStart, commandWhole, hd]
  | ok i =>
    simp only [commandStart, commandWhole, hd]
    cases i with
    | new => exact absurd hd hnew
    | enc => exact hnokey false (hkey.resolve_right fun h => h.1 hd)
    | dec => exact hnokey true (hkey.resolve_right fun h => h.2 hd)
    | _ => rfl

/-- The cycle of acceptance: NEW takes step K0, ENC and DEC with a key take step C0, and every other command is served
whole. -/
theorem commandStart_cases (cmd : Command) (s : State) :
    (decode cmd.cw = .ok .new ∧ commandStart cmd s = .next (stepK0 s.opA s).silent) ∨
    (s.kv = true ∧ ∃ dir, commandStart cmd s = .next (stepC0 s.opA dir s).silent) ∨
    (decode cmd.cw ≠ .ok .new ∧ commandStart cmd s = commandWhole cmd s) := by
  by_cases hnew : decode cmd.cw = .ok .new
  · exact .inl ⟨hnew, commandStart_of_new hnew s⟩
  by_cases hcrypt : s.kv = true ∧ (decode cmd.cw = .ok .enc ∨ decode cmd.cw = .ok .dec)
  · obtain ⟨hkv, hd⟩ := hcrypt
    exact .inr (.inl ⟨hkv, _, commandStart_of_crypt hkv hd⟩)
  · have hkey : s.kv = false ∨ decode cmd.cw ≠ .ok .enc ∧ decode cmd.cw ≠ .ok .dec := by
      rwa [not_and_or, not_or, Bool.not_eq_true] at hcrypt
    exact .inr (.inr ⟨hnew, commandStart_eq_commandWhole hnew hkey⟩)

/-- Everything a cycle of the port can do, for either machine: reset, an internal step, a wait, or a command accepted in
`IDLE`. -/
theorem portCycle_cases (accept : Command → State → Host.Outcome State Fault Refusal) (u : Config.Unroll) (s : State) :
    (s.now = .reset ∧ portCycle accept u s = .next s.resetNow) ∨
    (s.now ≠ .reset ∧ s.ph ≠ .idle ∧ portCycle accept u s = .next (busyCycle u s)) ∨
    (s.now = .quiet ∧ s.ph = .idle ∧ portCycle accept u s = .next (waitCycle s)) ∨
    (∃ cmd, s.now = .command cmd ∧ s.ph = .idle ∧ portCycle accept u s = accepted (accept cmd s)) := by
  cases hn : s.now with
  | reset => exact .inl ⟨rfl, by rw [portCycle, hn]⟩
  | quiet =>
    by_cases hidle : s.ph = .idle
    · exact .inr (.inr (.inl ⟨rfl, hidle, by simp [portCycle, hn, busy, hidle]⟩))
    · exact .inr (.inl ⟨nofun, hidle, by simp [portCycle, hn, (busy_iff s).2 hidle]⟩)
  | command cmd =>
    by_cases hidle : s.ph = .idle
    · exact .inr (.inr (.inr ⟨cmd, rfl, hidle, by simp [portCycle, hn, busy, hidle]⟩))
    · exact .inr (.inl ⟨nofun, hidle, by simp [portCycle, hn, (busy_iff s).2 hidle]⟩)

/-- What a cycle that answers `t` has done. -/
theorem portCycle_inv {accept : Command → State → Host.Outcome State Fault Refusal} {u : Config.Unroll} {s t : State}
    (h : portCycle accept u s = .next t) :
    (s.now = .reset ∧ t = s.resetNow) ∨
    (s.now ≠ .reset ∧ s.ph ≠ .idle ∧ t = busyCycle u s) ∨
    (s.now = .quiet ∧ s.ph = .idle ∧ t = waitCycle s) ∨
    (∃ cmd v, s.now = .command cmd ∧ s.ph = .idle ∧ accept cmd s = .next v ∧ t = v.advance) := by
  obtain ⟨hn, e⟩ | ⟨hn, hb, e⟩ | ⟨hn, hidle, e⟩ | ⟨cmd, hn, hidle, e⟩ := portCycle_cases accept u s
  all_goals rw [e] at h
  · exact .inl ⟨hn, by simpa using h.symm⟩
  · exact .inr (.inl ⟨hn, hb, by simpa using h.symm⟩)
  · exact .inr (.inr (.inl ⟨hn, hidle, by simpa using h.symm⟩))
  · cases hv : accept cmd s with
    | next v => exact .inr (.inr (.inr ⟨cmd, v, hn, hidle, hv, by simpa [hv, accepted] using h.symm⟩))
    | fault r => exact nomatch r
    | refused r => simp [hv, accepted] at h

/-- A cycle keeps the invariant if the treatment of an accepted command does. -/
theorem portCycle_keeps_inv {accept : Command → State → Host.Outcome State Fault Refusal} {u : Config.Unroll}
    {s t : State} (haccept : ∀ cmd v, s.ph = .idle → s.Inv → accept cmd s = .next v → v.Inv) (h : s.Inv)
    (hcycle : portCycle accept u s = .next t) : t.Inv := by
  obtain ⟨-, rfl⟩ | ⟨-, hbusy, rfl⟩ | ⟨-, -, rfl⟩ | ⟨cmd, v, -, hidle, hv, rfl⟩ := portCycle_inv hcycle
  · exact resetNow_inv s
  · exact busyCycle_inv u hbusy h
  · exact waitCycle_eq_withPort s ▸ inv_withPort h _ _
  · exact advance_eq_withPort v ▸ inv_withPort (haccept cmd v hidle h hv) _ _

theorem commandWhole_keeps_inv {cmd : Command} {s v : State} (hidle : s.ph = .idle) (h : s.Inv)
    (hv : commandWhole cmd s = .next v) : v.Inv := by
  rw [commandWhole] at hv
  split at hv
  · exact exec_keeps_inv hidle h hv
  · cases hv
    exact raise_inv (by decide) h

theorem commandStart_keeps_inv {cmd : Command} {s v : State} (hidle : s.ph = .idle) (h : s.Inv)
    (hv : commandStart cmd s = .next v) : v.Inv := by
  obtain ⟨-, e⟩ | ⟨hkv, dir, e⟩ | ⟨-, e⟩ := commandStart_cases cmd s
  all_goals rw [e] at hv
  · cases hv
    exact stepK0_inv (s := s) s.opA hidle h
  · cases hv
    exact stepC0_inv (s := s) s.opA dir hidle hkv h
  · exact commandWhole_keeps_inv hidle h hv

/-- Settles O43: a step is a cycle that serves an accepted command whole. -/
theorem invariantKeptByStep : Obligations.InvariantKeptByStep := fun _ _ h hstep =>
  portCycle_keeps_inv (accept := commandWhole) (fun _ _ => commandWhole_keeps_inv) h hstep

/-- Settles O44: a clock cycle is a cycle that starts an accepted command. -/
theorem invariantKeptByTick : Obligations.InvariantKeptByTick := fun _ _ _ h htick =>
  portCycle_keeps_inv (accept := commandStart) (fun _ _ => commandStart_keeps_inv) h htick

end Sys2Proof.Machine
end

section
/-! The cycle of the port (30_encoding.md rules R90, R100, 60_exceptions.md rule R224, 70_reset_and_hazards.md rule R258):
it always answers a next state, waits where nothing is to be done, and runs the decoded instruction of an accepted
command. -/

namespace Sys2Proof.Machine

theorem accepted_next {o : Host.Outcome State Fault Refusal} (h : ∃ v, o = .next v) : ∃ t, accepted o = .next t := by
  obtain ⟨v, rfl⟩ := h
  exact ⟨v.advance, rfl⟩

theorem portCycle_next {accept : Command → State → Host.Outcome State Fault Refusal} (u : Config.Unroll) {s : State}
    (haccept : ∀ cmd, ∃ v, accept cmd s = .next v) : ∃ t, portCycle accept u s = .next t := by
  obtain ⟨-, e⟩ | ⟨-, -, e⟩ | ⟨-, -, e⟩ | ⟨cmd, -, -, e⟩ := portCycle_cases accept u s
  · exact ⟨_, e⟩
  · exact ⟨_, e⟩
  · exact ⟨_, e⟩
  · exact e ▸ accepted_next (haccept cmd)

theorem commandWhole_next (cmd : Command) (s : State) : ∃ v, commandWhole cmd s = .next v := by
  rw [commandWhole]
  split
  · exact exec_next _ s
  · exact ⟨_, rfl⟩

theorem commandStart_next (cmd : Command) (s : State) : ∃ v, commandStart cmd s = .next v := by
  obtain ⟨-, e⟩ | ⟨-, dir, e⟩ | ⟨-, e⟩ := commandStart_cases cmd s
  · exact ⟨_, e⟩
  · exact ⟨_, e⟩
  · exact e ▸ commandWhole_next cmd s

/-- Settles O47: no command is refused or stops the machine, and a cycle does nothing else that could. -/
theorem nothingStopsTheMachine : Obligations.NothingStopsTheMachine := fun s =>
  ⟨portCycle_next .one fun cmd => commandWhole_next cmd s, fun u => portCycle_next u fun cmd => commandStart_next cmd s⟩

/-- Settles O45: the decoder gives well-formed instructions, and no instruction touches the port. -/
theorem stepRunsDecodedInstruction : Obligations.StepRunsDecodedInstruction := by
  intro s cmd rest i ⟨hidle, hin⟩ hd
  obtain ⟨t, ht⟩ := exec_next i s
  have hport : t.inputs = .command cmd :: rest := (exec_inputs ht).trans hin
  refine ⟨decode_wellFormed hd, opA_of_command hin, opB_of_command hin, t, ht, hport, ?_⟩
  rw [step, commandStep_of_decoded hidle (now_of_command hin) hd, ht, accepted, State.advance, hport, List.tail_cons]

theorem step_of_quiet {s : State} (hidle : s.ph = .idle) (hnow : s.now = .quiet) : step s = .next (waitCycle s) := by
  simp [step, commandStep, portCycle, hnow, busy, hidle]

theorem cmdReady_of_busy {s : State} (hbusy : s.ph ≠ .idle) : s.cmdReady = false := by
  simp [State.cmdReady, (busy_iff s).2 hbusy]

@[simp] theorem heldInputs_command (cmd : Command) (rest : List PortIn) :
    heldInputs (.command cmd :: rest) = .command cmd :: rest := rfl

theorem busyCycle_inputs (u : Config.Unroll) {s : State} (hbusy : s.ph ≠ .idle) :
    (busyCycle u s).inputs = heldInputs s.inputs := by
  by_cases hrc : s.rc.val < 16
  · obtain ⟨-, -, -, -, hin⟩ := busyCycle_round (u := u) hbusy hrc
    exact hin
  · obtain ⟨-, -, -, hin⟩ := busyCycle_end (u := u) hbusy (show s.rc.val = 16 by omega)
    exact hin

/-- Settles O46: a wait only moves the port on, and a busy cycle leaves a presented command there. -/
theorem waitingChangesNothing : Obligations.WaitingChangesNothing := by
  refine ⟨fun s hidle hnow => ⟨step_of_quiet hidle hnow, fun u => tick_of_quiet hnow hidle⟩,
    fun s hbusy cmd rest hin => ⟨cmdReady_of_busy hbusy, ?_, fun u => ?_⟩⟩
  all_goals
    have hnow : s.now ≠ .reset := by simp [now_of_command hin]
    have hheld (u : Config.Unroll) : (busyCycle u s).inputs = s.inputs := by
      rw [busyCycle_inputs u hbusy, hin, heldInputs_command]
  · exact ⟨_, step_of_busy hnow hbusy, hheld .one⟩
  · exact ⟨_, tick_of_busy hnow hbusy, hheld u⟩

end Sys2Proof.Machine
end

section
/-! What the rounds of a command in progress leave unchanged (41_key_schedule.md rule R153, 43_cipher_engine.md rule R189),
and who writes the key store (10_state.md rules R27, R28). -/

namespace Sys2Proof.Machine

theorem roundSteps_frame_of_keygen (n : Nat) {s : State} (hph : s.ph = .keygen) :
    ∃ c d ks rc, roundSteps n s = { s with c := c, d := d, ks := ks, rc := rc } := by
  apply roundSteps_keeps (P := fun t => ∃ c d ks rc, t = { s with c := c, d := d, ks := ks, rc := rc })
  · rintro t ⟨c, d, ks, rc, rfl⟩
    obtain ⟨i, -, e⟩ | e := roundStep_keygen_cases (s := { s with c := c, d := d, ks := ks, rc := rc }) hph
    · exact ⟨_, _, _, _, e⟩
    · exact ⟨_, _, _, _, e⟩
  · exact ⟨s.c, s.d, s.ks, s.rc, rfl⟩

theorem roundSteps_frame_of_crypt (n : Nat) {s : State} (hph : s.ph = .crypt) :
    ∃ l r rc, roundSteps n s = { s with l := l, r := r, rc := rc } := by
  apply roundSteps_keeps (P := fun t => ∃ l r rc, t = { s with l := l, r := r, rc := rc })
  · rintro t ⟨l, r, rc, rfl⟩
    obtain ⟨j, -, e⟩ | e := roundStep_crypt_cases (s := { s with l := l, r := r, rc := rc }) hph
    · exact ⟨_, _, _, e⟩
    · exact ⟨_, _, _, e⟩
  · exact ⟨s.l, s.r, s.rc, rfl⟩

/-- A cycle of ENC or DEC in progress reads the key store and writes neither it nor `KV`. -/
theorem busyCycle_key_of_crypt (u : Config.Unroll) {s : State} (hph : s.ph = .crypt) :
    (busyCycle u s).ks = s.ks ∧ (busyCycle u s).kv = s.kv := by
  have hbusy : s.ph ≠ .idle := by simp [hph]
  by_cases hrc : s.rc.val < 16
  · obtain ⟨l, r, rc, e⟩ := roundSteps_frame_of_crypt u.rounds (s := s.hold.silent) hph
    rw [(busyCycle_round hbusy hrc).1, e]
    exact ⟨rfl, rfl⟩
  · rw [(busyCycle_end hbusy (by omega)).1, endStep_of_crypt (s := s.hold.silent) hph]
    exact ⟨rfl, rfl⟩

theorem exec_keeps_key {i : Instr} {s t : State} (hi : i ≠ .new) (h : exec i s = .next t) :
    t.ks = s.ks ∧ t.kv = s.kv := by
  simpa [hi] using exec_key h

theorem commandWhole_keeps_key {cmd : Command} {s v : State} (hnew : decode cmd.cw ≠ .ok .new)
    (hv : commandWhole cmd s = .next v) : v.ks = s.ks ∧ v.kv = s.kv := by
  rw [commandWhole] at hv
  split at hv
  case h_1 i hd => exact exec_keeps_key (fun hi => hnew (hi ▸ hd)) hv
  case h_2 =>
    cases hv
    exact ⟨rfl, rfl⟩

theorem commandStart_keeps_key {cmd : Command} {s v : State} (hnew : decode cmd.cw ≠ .ok .new)
    (hv : commandStart cmd s = .next v) : v.ks = s.ks ∧ v.kv = s.kv := by
  obtain ⟨hd, -⟩ | ⟨-, dir, e⟩ | ⟨-, e⟩ := commandStart_cases cmd s
  · exact absurd hd hnew
  · cases e.symm.trans hv
    exact ⟨rfl, rfl⟩
  · exact commandWhole_keeps_key hnew (e.symm.trans hv)

/-- A cycle without `rst` in which no NEW is accepted or in progress leaves the key store and `KV` as they are. -/
theorem portCycle_keeps_key {accept : Command → State → Host.Outcome State Fault Refusal} {u : Config.Unroll}
    {s t : State} (haccept : ∀ cmd v, decode cmd.cw ≠ .ok .new → accept cmd s = .next v → v.ks = s.ks ∧ v.kv = s.kv)
    (hrst : s.now ≠ .reset) (hkeygen : s.ph ≠ .keygen)
    (hnew : ∀ cmd rest, Claims.Presented s cmd rest → decode cmd.cw ≠ .ok .new)
    (hcycle : portCycle accept u s = .next t) : t.ks = s.ks ∧ t.kv = s.kv := by
  obtain ⟨hn, -⟩ | ⟨-, hbusy, rfl⟩ | ⟨-, -, rfl⟩ | ⟨cmd, v, hn, hidle, hv, rfl⟩ := portCycle_inv hcycle
  · exact absurd hn hrst
  · cases hph : s.ph with
    | idle => exact absurd hph hbusy
    | keygen => exact absurd hph hkeygen
    | crypt => exact busyCycle_key_of_crypt u hph
  · exact ⟨rfl, rfl⟩
  · obtain ⟨rest, hin⟩ : ∃ rest, s.inputs = .command cmd :: rest := by
      rw [State.now] at hn
      cases hin : s.inputs with
      | nil => simp [hin] at hn
      | cons x rest => exact ⟨rest, by simpa [hin] using hn⟩
    exact haccept cmd v (hnew cmd rest ⟨hidle, hin⟩) hv

/-- Settles O54: the contrapositive of the frame of a cycle, for either machine. -/
theorem onlyNewWritesKeyStore : Obligations.OnlyNewWritesKeyStore := by
  refine ⟨fun i s t hi h => exec_keeps_key hi h, fun u s t hrst hcycle hchange => ?_⟩
  by_contra hnone
  obtain ⟨hkeygen, hnew⟩ := not_or.1 hnone
  have hnew' (cmd : Command) (rest : List PortIn) (hp : Claims.Presented s cmd rest) : decode cmd.cw ≠ .ok .new :=
    fun hd => hnew ⟨cmd, rest, hp, hd⟩
  have hkey : t.ks = s.ks ∧ t.kv = s.kv := by
    obtain hstep | htick := hcycle
    · exact portCycle_keeps_key (fun _ _ => commandWhole_keeps_key) hrst hkeygen hnew' hstep
    · exact portCycle_keeps_key (fun _ _ => commandStart_keeps_key) hrst hkeygen hnew' htick
  exact hchange.elim (· hkey.1) (· hkey.2)

end Sys2Proof.Machine
end

section
/-! The clock cycles of a command in progress, and their composition to the atomic command (70_reset_and_hazards.md rule
R258, 41_key_schedule.md rules R150 to R154, 43_cipher_engine.md rules R186 to R191; the count of cycles is log entry 10). -/

namespace Sys2Proof.Machine

theorem now_ne_reset_iff (s : State) : s.now ≠ .reset ↔ s.inputs.head? ≠ some .reset := by
  cases h : s.inputs <;> simp [State.now, h]

theorem ticks_succ (u : Config.Unroll) (n : Nat) {s t : State} (h : tick u s = .next t) :
    ticks u (n + 1) s = ticks u n t := by
  rw [ticks, h]

theorem ticks_one (u : Config.Unroll) (s : State) : ticks u 1 s = tick u s := by
  cases h : tick u s <;> simp [ticks, h]

/-- One more cycle at the end of a run. -/
theorem ticks_add_one {u : Config.Unroll} {n : Nat} {s t : State} (h : ticks u n s = .next t) :
    ticks u (n + 1) s = tick u t := by
  induction n generalizing s with
  | zero =>
    cases h
    exact ticks_one u _
  | succ n ih =>
    cases hs : tick u s with
    | next v =>
      rw [ticks_succ u _ hs] at h ⊢
      exact ih h
    | fault r => exact nomatch r
    | refused r => simp [ticks, hs] at h

theorem roundStep_withPort (s : State) (xs : List PortIn) (rsp : Option Response) :
    roundStep (s.withPort xs rsp) = (roundStep s).withPort xs rsp := by
  by_cases hrc : s.rc.val < 16
  · cases hph : s.ph with
    | idle => rw [roundStep_of_idle hph, roundStep_of_idle (s := s.withPort xs rsp) hph]
    | keygen =>
      rw [roundStep_of_keygen (i := ⟨s.rc.val, hrc⟩) hph rfl,
        roundStep_of_keygen (s := s.withPort xs rsp) (i := ⟨s.rc.val, hrc⟩) hph rfl]
      rfl
    | crypt =>
      rw [roundStep_of_crypt (j := ⟨s.rc.val, hrc⟩) hph rfl,
        roundStep_of_crypt (s := s.withPort xs rsp) (j := ⟨s.rc.val, hrc⟩) hph rfl]
      rfl
  · have hdone : s.rc.val = 16 := by omega
    rw [roundStep_of_done hdone, roundStep_of_done (s := s.withPort xs rsp) hdone]

/-- The rounds neither read nor write the port. -/
theorem roundSteps_withPort (n : Nat) (s : State) (xs : List PortIn) (rsp : Option Response) :
    roundSteps n (s.withPort xs rsp) = (roundSteps n s).withPort xs rsp := by
  induction n generalizing s with
  | zero => rfl
  | succ n ih => rw [roundSteps, roundStep_withPort, ih, roundSteps]

theorem endStep_withPort {s : State} (hbusy : s.ph ≠ .idle) (xs : List PortIn) (rsp : Option Response) :
    endStep (s.withPort xs rsp) = { endStep s with inputs := xs } := by
  obtain ⟨l, r, c, d, ph, rc, dir, ks, kv, flt, inputs, rsp'⟩ := s
  cases ph with
  | idle => exact absurd rfl hbusy
  | keygen | crypt => rfl

theorem cyclesLeft_bounds (u : Config.Unroll) (rc : Nat) : 1 ≤ Claims.cyclesLeft u rc ∧ Claims.cyclesLeft u rc ≤ 17 := by
  cases u <;> simp only [Claims.cyclesLeft, Config.Unroll.rounds] <;> omega

/-- A cycle is followed by another one exactly when it still has rounds to do. -/
theorem add_one_lt_cyclesLeft_iff (u : Config.Unroll) (rc m : Nat) :
    m + 1 < Claims.cyclesLeft u rc ↔ rc + m * u.rounds < 16 := by
  cases u <;> simp only [Claims.cyclesLeft, Config.Unroll.rounds] <;> omega

section
variable {u : Config.Unroll} {s : State} (hbusy : s.ph ≠ .idle)
include hbusy

/-- The cycles of a command in progress before its last one: `UNROLL` rounds each, and no response. -/
theorem ticks_of_rounds_left {m : Nat} (hm : m < Claims.cyclesLeft u s.rc.val) (hrst : Claims.NoResetFor m s.inputs) :
    ticks u m s = .next ((roundSteps (m * u.rounds) s).withPort (heldInputs^[m] s.inputs)
      (if m = 0 then s.rsp else none)) := by
  induction m with
  | zero =>
    rw [Nat.zero_mul]
    rfl
  | succ m ih =>
    have hleft := (add_one_lt_cyclesLeft_iff u s.rc.val m).1 hm
    obtain ⟨hrc, hph, -⟩ := roundSteps_progress (m * u.rounds) hbusy
    rw [ticks_add_one (ih (by omega) fun k hk => hrst k (by omega)),
      tick_of_busy ((now_ne_reset_iff _).2 (hrst m (by omega))) (by rwa [State.withPort, hph]),
      (busyCycle_round (by rwa [State.withPort, hph]) (by rw [State.withPort, hrc]; omega)).1,
      hold_silent_eq_withPort, roundSteps_withPort, roundSteps_withPort, ← roundSteps_add, ← Nat.succ_mul,
      Function.iterate_succ_apply']
    rfl

/-- The whole of a command in progress: `n` cycles of rounds, and then its end step. -/
theorem ticks_of_cyclesLeft {n : Nat} (hn : Claims.cyclesLeft u s.rc.val = n + 1)
    (hrst : Claims.NoResetFor (n + 1) s.inputs) :
    ticks u (n + 1) s = .next { endStep (roundSteps (n * u.rounds) s) with inputs := heldInputs^[n + 1] s.inputs } := by
  have hdone := mt (add_one_lt_cyclesLeft_iff u s.rc.val n).2 (by omega)
  obtain ⟨hrc, hph, -⟩ := roundSteps_progress (n * u.rounds) hbusy
  rw [ticks_add_one (ticks_of_rounds_left hbusy (by omega) fun k hk => hrst k (by omega)),
    tick_of_busy ((now_ne_reset_iff _).2 (hrst n (by omega))) (by rwa [State.withPort, hph]),
    (busyCycle_end (by rwa [State.withPort, hph]) (by rw [State.withPort, hrc]; omega)).1,
    hold_silent_eq_withPort, Function.iterate_succ_apply']
  exact congrArg _ (endStep_withPort (by rwa [hph]) _ _)

end

theorem endStep_ends {s : State} (hbusy : s.ph ≠ .idle) : (endStep s).ph = .idle ∧ (endStep s).rsp ≠ none := by
  cases hph : s.ph with
  | idle => exact absurd hph hbusy
  | keygen =>
    rw [endStep_of_keygen hph]
    exact ⟨rfl, nofun⟩
  | crypt =>
    rw [endStep_of_crypt hph]
    exact ⟨rfl, nofun⟩

/-- Settles O48: before the last cycle there are rounds left and no response is given; the last cycle is the end step. -/
theorem commandInProgressEnds : Obligations.CommandInProgressEnds := by
  intro u s hbusy
  have hbounds := cyclesLeft_bounds u s.rc.val
  refine ⟨hbounds, fun hrst => ?ends, fun m hm hrst => ?before⟩
  case ends =>
    obtain ⟨n, hn⟩ : ∃ n, Claims.cyclesLeft u s.rc.val = n + 1 := ⟨_, (Nat.sub_add_cancel hbounds.1).symm⟩
    obtain ⟨-, hph, -⟩ := roundSteps_progress (n * u.rounds) hbusy
    obtain ⟨hidle, hrsp⟩ := endStep_ends (s := roundSteps (n * u.rounds) s) (by rwa [hph])
    rw [hn] at hrst ⊢
    exact ⟨_, ticks_of_cyclesLeft hbusy hn hrst, hidle, hrsp, rfl⟩
  case before =>
    obtain ⟨hrc, hph, -⟩ := roundSteps_progress (m * u.rounds) hbusy
    exact ⟨_, ticks_of_rounds_left hbusy hm hrst, hph, hrc, rfl, fun hm0 => if_neg hm0⟩

/-- The cycles of a command that has just started its sixteen rounds. -/
theorem ticks_of_sixteen_rounds {u : Config.Unroll} {s : State} (hbusy : s.ph ≠ .idle) (hrc : s.rc.val = 0)
    (hrst : Claims.NoResetFor (1 + 16 / u.rounds) s.inputs) :
    ticks u (1 + 16 / u.rounds) s =
      .next { endStep (roundSteps 16 s) with inputs := heldInputs^[1 + 16 / u.rounds] s.inputs } := by
  have hcount : Claims.cyclesLeft u s.rc.val = 16 / u.rounds + 1 ∧ 16 / u.rounds * u.rounds = 16 := by
    rw [hrc]
    cases u <;> decide
  rw [Nat.add_comm 1] at hrst ⊢
  rw [ticks_of_cyclesLeft hbusy hcount.1 hrst, hcount.2]

theorem roundSteps_keygenAt {key : Word64} (n : Nat) {s : State} (hph : s.ph = .keygen) (h : KeygenAt key s) :
    KeygenAt key (roundSteps n s) := by
  have hround (s : State) (hs : s.ph = .keygen ∧ KeygenAt key s) :
      (roundStep s).ph = .keygen ∧ KeygenAt key (roundStep s) := by
    obtain ⟨hph, h⟩ := hs
    obtain ⟨i, hrc, e⟩ | e := roundStep_keygen_cases hph
    · exact e ▸ ⟨hph, stepK_keygenAt hrc h⟩
    · exact e.symm ▸ ⟨hph, h⟩
  exact (roundSteps_keeps hround n ⟨hph, h⟩).2

/-- The sixteen rounds after step K0 and step Kend: the whole schedule, and every other register as NEW leaves it. -/
theorem endStep_of_sixteen_keygen_rounds {key : Word64} {s : State} (hph : s.ph = .keygen) (h : KeygenAt key s) :
    endStep (roundSteps 16 s) =
      { s.endKeygen with ks := fullStore (keysched key), kv := true }.respond 0#64 0#64 := by
  have hks : (roundSteps 16 s).ks = fullStore (keysched key) := by
    obtain ⟨hrc, -⟩ := roundSteps_progress 16 (s := s) (by simp [hph])
    exact (roundSteps_keygenAt 16 hph h).ks_eq (by omega)
  obtain ⟨c, d, ks, rc, e⟩ := roundSteps_frame_of_keygen 16 hph
  rw [e] at hks ⊢
  subst hks
  exact endStep_of_keygen hph

/-- Settles O51: step K0 in the first cycle, then the sixteen rounds and Kend, which leave what the atomic NEW leaves. -/
theorem newTicksRefineStep : Obligations.NewTicksRefineStep := by
  intro u s cmd rest hp hrst hd
  have hrest : rest = s.inputs.tail := by rw [hp.2, List.tail_cons]
  have hstart : tick u s = .next (stepK0 s.opA s).silent.advance := opA_of_command hp.2 ▸ tick_of_new u hp hd
  refine ⟨(newState s).advance, by rw [step_of_presented hp, commandWhole, hd]; rfl, ?_⟩
  subst hrest
  rw [show 2 + 16 / u.rounds = 1 + 16 / u.rounds + 1 by omega, ticks_succ u _ hstart,
    ticks_of_sixteen_rounds (by simp [stepK0]) rfl hrst,
    endStep_of_sixteen_keygen_rounds (s := (stepK0 s.opA s).silent.advance) rfl (stepK0_keygenAt s.opA s)]
  rfl

theorem roundSteps_cryptAt {block : Word64} (n : Nat) {s : State} (hph : s.ph = .crypt) (h : CryptAt block s) :
    CryptAt block (roundSteps n s) := by
  have hround (s : State) (hs : s.ph = .crypt ∧ CryptAt block s) :
      (roundStep s).ph = .crypt ∧ CryptAt block (roundStep s) := by
    obtain ⟨hph, h⟩ := hs
    obtain ⟨j, hrc, e⟩ | e := roundStep_crypt_cases hph
    · exact e ▸ ⟨hph, stepC_cryptAt hrc h⟩
    · exact e.symm ▸ ⟨hph, h⟩
  exact (roundSteps_keeps hround n ⟨hph, h⟩).2

/-- The sixteen rounds after step C0 and step Cend: the engine's result, and every register as ENC and DEC leave it. -/
theorem endStep_of_sixteen_crypt_rounds {block : Word64} {s : State} (hph : s.ph = .crypt) (h : CryptAt block s) :
    endStep (roundSteps 16 s) = s.endCrypt.respond (crypt s.schedule block s.dir) 0#64 := by
  have hhalves := roundSteps_cryptAt 16 hph h
  obtain ⟨hrc, -⟩ := roundSteps_progress 16 (s := s) (by simp [hph])
  rw [CryptAt, show (roundSteps 16 s).rc.val = 16 by omega] at hhalves
  obtain ⟨l, r, rc, e⟩ := roundSteps_frame_of_crypt 16 hph
  rw [e] at hhalves ⊢
  rw [endStep_of_crypt (by exact hph), stepCend, hhalves]
  rfl

theorem step_of_crypt_command {s : State} {cmd : Command} {rest : List PortIn} (hp : Claims.Presented s cmd rest)
    (hkv : s.kv = true) (hd : decode cmd.cw = .ok .enc ∨ decode cmd.cw = .ok .dec) :
    step s = .next (s.endCrypt.respond (crypt s.schedule s.opA (decide (decode cmd.cw = .ok .dec))) 0#64).advance := by
  rw [step_of_presented hp, commandWhole]
  obtain hd | hd := hd <;> simp [hd, exec, execEnc, execDec, cryptCommand_of_key _ hkv, accepted]

/-- Settles O52: step C0 in the first cycle, then the sixteen rounds and Cend, which leave what the atomic command leaves;
the other commands are served whole by both machines. -/
theorem cryptTicksRefineStep : Obligations.CryptTicksRefineStep := by
  refine ⟨fun u s cmd rest hp hrst hkv hd => ?rounds, fun u s cmd rest hp hnew hkey => ?one⟩
  case rounds =>
    have hrest : rest = s.inputs.tail := by rw [hp.2, List.tail_cons]
    have hstart := tick_of_crypt u hp hkv hd
    rw [← opA_of_command hp.2] at hstart
    refine ⟨_, step_of_crypt_command hp hkv hd, ?_⟩
    subst hrest
    generalize decide (decode cmd.cw = .ok .dec) = dir at *
    rw [show 2 + 16 / u.rounds = 1 + 16 / u.rounds + 1 by omega, ticks_succ u _ hstart,
      ticks_of_sixteen_rounds (by simp [stepC0]) rfl hrst,
      endStep_of_sixteen_crypt_rounds (s := (stepC0 s.opA dir s).silent.advance) rfl (stepC0_cryptAt s.opA dir s)]
    rfl
  case one =>
    rw [ticks_one, tick_of_command (now_of_command hp.2) hp.1, commandStart_eq_commandWhole hnew hkey,
      step_of_presented hp]

end Sys2Proof.Machine
end

section
/-! Consequences of the primitives' rules (20_memory.md rule R61, 40_primitives.md rules R139, R142). -/

namespace Sys2Proof.Machine

theorem fp_at_ip : ∀ k < 64, Rom.promRead Rom.fp (Rom.promRead Rom.ip k - 1) = k + 1 := by decide

theorem ip_at_fp : ∀ k < 64, Rom.promRead Rom.ip (Rom.promRead Rom.fp k - 1) = k + 1 := by decide

/-- Settles O59: the two tables are inverse entry by entry, which undoes the permutation of any value. -/
theorem ipAndFpAreInverse : Obligations.IpAndFpAreInverse := by
  refine ⟨fun i hi hi' => ?_, fun i hi hi' => ?_, fun v => ⟨?_, ?_⟩⟩
  · rw [fp_at_ip (i - 1) (by omega), Nat.sub_add_cancel hi]
  · rw [ip_at_fp (i - 1) (by omega), Nat.sub_add_cancel hi]
  · exact permuteBits_permuteBits_of_inverse tableOk_fp rfl rfl ip_at_fp v
  · exact permuteBits_permuteBits_of_inverse tableOk_ip rfl rfl fp_at_ip v

/-- A bit of a rotated field, for any amount. -/
theorem rotateLeft_getLsbD (v : KHalf) (n : Nat) {i : Nat} (hi : i < 28) :
    (v.rotateLeft n).getLsbD i = v.getLsbD ((i + (28 - n % 28)) % 28) := by
  rw [BitVec.getLsbD_rotateLeft]
  by_cases hwrap : i < n % 28
  · rw [decide_eq_true hwrap, cond_true, show (i + (28 - n % 28)) % 28 = 28 - n % 28 + i by omega]
  · rw [decide_eq_false hwrap, cond_false, decide_eq_true hi, Bool.true_and,
      show (i + (28 - n % 28)) % 28 = i - n % 28 by omega]

theorem rotateLeft_rotateLeft (v : KHalf) (m n : Nat) : (v.rotateLeft m).rotateLeft n = v.rotateLeft (m + n) := by
  apply BitVec.eq_of_getLsbD_eq
  intro i hi
  rw [rotateLeft_getLsbD _ n hi, rotateLeft_getLsbD v m (Nat.mod_lt _ (by decide)), rotateLeft_getLsbD v (m + n) hi]
  congr 1
  omega

/-- A whole turn, or none. -/
theorem rotateLeft_turn (v : KHalf) {n : Nat} (hn : n % 28 = 0) : v.rotateLeft n = v := by
  apply BitVec.eq_of_getLsbD_eq
  intro i hi
  rw [rotateLeft_getLsbD v n hi]
  congr 1
  omega

theorem exec_rotl1 (s : State) : exec .rotl1 s = answerOne (rotateLeft s.opA 1) s := rfl

theorem exec_rotl2 (s : State) : exec .rotl2 s = answerOne (rotateLeft s.opA 2) s := rfl

/-- A field put on a port is below `2 ^ w`. -/
theorem zext_lt {w : Nat} (v : BitVec w) : (v.setWidth 64).toNat < 2 ^ w := by
  rw [BitVec.toNat_setWidth]
  exact (Nat.mod_le _ _).trans_lt v.isLt

/-- A field is read back from a port as it was. -/
theorem setWidth_zext {w : Nat} (hw : w ≤ 64) (v : BitVec w) : (v.setWidth 64).setWidth w = v := by
  rw [BitVec.setWidth_setWidth_of_le _ hw, BitVec.setWidth_eq]

/-- `rotate_left` on a field that stands on a port. -/
theorem rotateLeft_zext (v : KHalf) (n : Nat) : rotateLeft (v.setWidth 64) n = .ok ((rotateLeftBits v n).setWidth 64) := by
  rw [rotateLeft_of_fits n (zext_lt v), setWidth_zext (by decide)]

/-- Settles O7: quotient and remainder by `2 ^ hw` of the merged value are the two operands; the amounts of two rotations
add up. -/
theorem primitiveInferences : Obligations.PrimitiveInferences := by
  refine ⟨fun hw hlegal s hA hB => ?merge_split, fun s hA => ?rotl⟩
  case merge_split =>
    obtain ⟨hmerge, -⟩ := mergeHalves
    obtain ⟨hsplit, -⟩ := splitHalves
    obtain ⟨-, hmerges, -⟩ := hmerge hw hlegal
    obtain ⟨-, hsplits, -⟩ := hsplit hw hlegal
    obtain ⟨q, hq, hval, hfits⟩ := hmerges s hA hB
    refine ⟨q, hq, fun t ht => ?_⟩
    obtain ⟨q0, q1, hdone, hhigh, hlow⟩ := hsplits t (ht ▸ hfits)
    rw [ht, hval, Nat.mul_comm] at hhigh hlow
    rw [Nat.mul_add_div (Nat.two_pow_pos _), Nat.div_eq_of_lt hB, Nat.add_zero] at hhigh
    rw [Nat.mul_add_mod, Nat.mod_eq_of_lt hB] at hlow
    rwa [← BitVec.eq_of_toNat_eq hhigh, ← BitVec.eq_of_toNat_eq hlow]
  case rotl =>
    have htwice : rotateLeftBits (rotateLeftBits (s.opA.setWidth 28) 1) 1 = rotateLeftBits (s.opA.setWidth 28) 2 := by
      simp only [rotateLeftBits_eq _ _ (show 1 < 28 by decide), rotateLeftBits_eq _ _ (show 2 < 28 by decide),
        rotateLeft_rotateLeft]
    refine ⟨(rotateLeftBits (s.opA.setWidth 28) 1).setWidth 64, (rotateLeftBits (s.opA.setWidth 28) 2).setWidth 64,
      (completes_iff_of_answerOne (exec_rotl1 s) _).2 (rotateLeft_of_fits 1 hA), fun t ht => ?_, fun v hv => ?_⟩
    · rw [completes_iff_of_answerOne (exec_rotl1 t), ht, rotateLeft_zext, htwice]
    · rw [completes_iff_of_answerOne (exec_rotl2 v), hv, rotateLeft_of_fits 2 hA]

end Sys2Proof.Machine
end

section
/-! The key schedule in closed form, and the keys that share a schedule (41_key_schedule.md rules R156, R157,
43_cipher_engine.md rule R196). -/

namespace Sys2Proof.Machine

/-- By how much the halves of the carry state have been rotated after the first `n` rounds. -/
def rotSum (n : Nat) : Nat := ((List.range n).map Rom.rot).sum

theorem rotSum_succ (n : Nat) : rotSum (n + 1) = rotSum n + Rom.rot n := by
  rw [rotSum, List.sum_range_succ]
  rfl

/-- The rotations of the rounds so far add up to one rotation of each half of `CD_0`. -/
theorem carryState_closed_form (key : Word64) {n : Nat} (hn : n ≤ 16) :
    carryState key n = mergeBits ((splitBits 28 (carryState key 0)).1.rotateLeft (rotSum n))
      ((splitBits 28 (carryState key 0)).2.rotateLeft (rotSum n)) := by
  induction n with
  | zero => rw [rotateLeft_turn _ rfl, rotateLeft_turn _ rfl, mergeBits_splitBits (hw := 28)]
  | succ n ih =>
    have hrot := rot_lt_28 n hn
    rw [carryState_succ, ih (Nat.le_of_succ_le hn), carryRound_mergeBits, rotateLeftBits_eq _ _ hrot,
      rotateLeftBits_eq _ _ hrot, rotateLeft_rotateLeft, rotateLeft_rotateLeft, ← rotSum_succ]

theorem rotSum_eq_table : ∀ i : Fin 16,
    rotSum (i.val + 1) = [1, 2, 4, 6, 8, 10, 12, 14, 15, 17, 19, 21, 23, 25, 27, 28].getD i.val 0 := by decide

/-- Settles O12: the amounts of the table are the sums of the amounts of the rounds. -/
theorem subkeyClosedForm : Obligations.SubkeyClosedForm := by
  intro key i
  rw [← rotSum_eq_table]
  exact (keysched_getElem key i.val i.isLt).trans (congrArg subkeyOf (carryState_closed_form key i.isLt))

/-- Settles O13: the sixteen amounts sum to 28, a whole turn of each half. -/
theorem carryStateReturns : Obligations.CarryStateReturns := by
  intro key
  have hturn : carryState key 16 = carryState key 0 := by
    rw [carryState_closed_form key le_rfl, rotateLeft_turn _ (by decide), rotateLeft_turn _ (by decide),
      mergeBits_splitBits (hw := 28)]
  exact ⟨hturn, (keysched_getElem key 15 (by decide)).trans (congrArg subkeyOf hturn)⟩

/-- The schedule reads the key through `CD_0` only. -/
theorem keysched_congr {k k' : Word64} (h : carryState k 0 = carryState k' 0) : keysched k = keysched k' := by
  have hcarry (n : Nat) : carryState k n = carryState k' n := by
    induction n with
    | zero => exact h
    | succ n ih => rw [carryState_succ, carryState_succ, ih]
  simp only [keysched, hcarry]

/-- PC-1 drops the eight parity positions. -/
theorem carryState_zero_mask (k : Word64) : carryState (k &&& 0xFEFEFEFEFEFEFEFE#64) 0 = carryState k 0 :=
  permuteBits_mask 56 k _ (by decide)

theorem keysched_of_parity {k k' : Word64} (h : k &&& 0xFEFEFEFEFEFEFEFE#64 = k' &&& 0xFEFEFEFEFEFEFEFE#64) :
    keysched k = keysched k' :=
  keysched_congr (by rw [← carryState_zero_mask k, h, carryState_zero_mask])

/-- What NEW leaves depends on its key through the schedule only. -/
theorem transact_new_congr {s : State} (hidle : s.ph = .idle) {k k' : Word64} (h : keysched k = keysched k')
    (b b' : Word64) : transact ⟨0x6000#16, k, b⟩ s = transact ⟨0x6000#16, k', b'⟩ s := by
  have hnew (k b : Word64) : transact ⟨0x6000#16, k, b⟩ s = .next
      { { s.endKeygen with ks := fullStore (keysched k), kv := true }.respond 0#64 0#64 with inputs := [] } :=
    transact_of_decoded (i := .new) hidle (show decode 0x6000#16 = .ok .new by decide)
  rw [hnew, hnew, h]

/-- Settles O14: the parity bits stop at PC-1. -/
theorem parityBitsIgnored : Obligations.ParityBitsIgnored := fun _ _ h =>
  ⟨keysched_of_parity h, fun _ b b' hidle => transact_new_congr hidle (keysched_of_parity h) b b'⟩

/-- Where every round leaves the first carry state as it is, the sixteen subkeys are equal. -/
theorem keysched_of_fixed {key : Word64} {cd : Carry} (hstart : carryState key 0 = cd)
    (hfixed : ∀ i < 16, carryRound (Rom.rot i) cd = cd) : keysched key = Vector.replicate 16 (subkeyOf cd) := by
  apply Vector.ext
  intro i hi
  rw [Vector.getElem_replicate]
  exact keysched_getElem_of_fixed hstart hfixed ⟨i, hi⟩

end Sys2Proof.Machine
end

section
/-! Consequences of the round function and of the engine (42_round_function.md rule R174, 43_cipher_engine.md rules R193 to
R196). -/

namespace Sys2Proof.Machine

theorem roundFunctionBits_congr {r r' : Half} {k k' : Subkey}
    (h : permuteBits 48 Rom.e r ^^^ k = permuteBits 48 Rom.e r' ^^^ k') :
    roundFunctionBits r k = roundFunctionBits r' k' := by
  rw [roundFunctionBits, h, roundFunctionBits]

/-- Settles O18: the mixed value is the only thing that the later stages see; the rest are evaluations. -/
theorem roundFunctionMixesOnly : Obligations.RoundFunctionMixesOnly :=
  ⟨fun _ _ _ _ => roundFunctionBits_congr, ⟨0x5A#32, 0x588#32, by decide, by decide +kernel⟩, by decide +kernel,
    by decide +kernel, by decide +kernel⟩

theorem roundKeys_reversed (ks : Schedule) :
    roundKeys (Vector.ofFn fun j : Fin 16 => ks[15 - j.val]) false = roundKeys ks true := by
  simp [roundKeys, subkeyIndex_false, subkeyIndex_true]

theorem crypt_congr {ks ks' : Schedule} {dir dir' : Bool} (h : roundKeys ks dir = roundKeys ks' dir') (b : Word64) :
    crypt ks b dir = crypt ks' b dir' := by
  rw [crypt, crypt, sixteenRounds_eq_foldl, sixteenRounds_eq_foldl, h]

/-- Settles O24: the two engines take the same subkeys in the same order. -/
theorem directionSymmetry : Obligations.DirectionSymmetry := fun ks b => crypt_congr (roundKeys_reversed ks).symm b

theorem roundKeys_replicate (k : Subkey) (dir : Bool) :
    roundKeys (Vector.replicate 16 k) dir = List.replicate 16 k := by
  simp [roundKeys]

/-- Settles O26: with equal subkeys both directions take the same list, so each undoes itself; the first carry states of the
four keys have halves of equal bits. -/
theorem equalSubkeysSelfInverse : Obligations.EqualSubkeysSelfInverse := by
  have hdir (k : Subkey) (b : Word64) :
      crypt (Vector.replicate 16 k) b true = crypt (Vector.replicate 16 k) b false :=
    crypt_congr (by rw [roundKeys_replicate, roundKeys_replicate]) b
  refine ⟨fun k b => ⟨hdir k b, ?_⟩, ?_, ?_, ?_, ?_⟩
  · rw [← hdir]
    exact crypt_crypt_not (Vector.replicate 16 k) b false
  · exact (keysched_of_fixed (cd := 0#56) (by decide +kernel) (by decide)).trans (by decide +kernel)
  · exact (keysched_of_fixed (cd := 0xFFFFFFFFFFFFFF#56) (by decide +kernel) (by decide)).trans (by decide +kernel)
  · exact (keysched_of_fixed (cd := 0xFFFFFFF0000000#56) (by decide +kernel) (by decide)).trans (by decide +kernel)
  · exact (keysched_of_fixed (cd := 0x0000000FFFFFFF#56) (by decide +kernel) (by decide)).trans (by decide +kernel)

end Sys2Proof.Machine
end

section
/-! The round function from the primitives on port values (95_test_vectors.md section 3, program P4): each primitive on a
field that stands on a port, the chunks as splits of splits, and the concatenation as merges of merges. -/

namespace Sys2Proof.Machine

theorem eq_zext_of_lt {v : Word64} {w : Nat} (h : v.toNat < 2 ^ w) : v = (v.setWidth w).setWidth 64 := by
  apply BitVec.eq_of_toNat_eq
  rw [BitVec.toNat_setWidth, BitVec.toNat_setWidth, Nat.mod_eq_of_lt h, Nat.mod_eq_of_lt v.isLt]

theorem permute_zext {w : Nat} (hw : w ≤ 64) {table : List Nat} (hok : tableOk table w = true) (v : BitVec w) :
    permute (v.setWidth 64) w table = .ok ((permuteBits table.length table v).setWidth 64) := by
  rw [permute_of_fits hok (zext_lt v), setWidth_zext hw]

theorem split_zext {hw : Nat} (h : hw + hw ≤ 64) (v : BitVec (hw + hw)) :
    split (v.setWidth 64) hw = .ok ((splitBits hw v).1.setWidth 64, (splitBits hw v).2.setWidth 64) := by
  have hv : (v.setWidth 64).toNat = v.toNat := BitVec.toNat_setWidth_of_le h
  rw [split_of_fits (by rw [Nat.two_mul]; exact zext_lt v)]
  congr 2
  · apply BitVec.eq_of_toNat_eq
    rw [highHalf_toNat, hv, BitVec.toNat_setWidth_of_le (by omega), splitBits, BitVec.extractLsb'_toNat,
      Nat.shiftRight_eq_div_pow, Nat.mod_eq_of_lt (highHalf_lt (by rw [Nat.two_mul]; exact v.isLt))]
  · apply BitVec.eq_of_toNat_eq
    rw [lowHalf_toNat, hv, BitVec.toNat_setWidth_of_le (by omega), splitBits, BitVec.toNat_setWidth]

theorem merge_zext {hw : Nat} (h : hw + hw ≤ 64) (a b : BitVec hw) :
    merge (a.setWidth 64) (b.setWidth 64) hw = .ok ((mergeBits a b).setWidth 64) := by
  have hval (c : BitVec hw) : (c.setWidth 64).toNat = c.toNat := BitVec.toNat_setWidth_of_le (by omega)
  have hmerged : (mergeBits a b).toNat = a.toNat * 2 ^ hw + b.toNat := append_toNat a b
  rw [merge_of_fits (zext_lt a) (zext_lt b), hval, hval, ← hmerged, BitVec.ofNat_toNat]

theorem substitute_zext (c : Chunk) (j : Nat) :
    substitute (c.setWidth 64) j = .ok ((substituteBits c j).setWidth 64) := by
  rw [substitute_of_fits j (zext_lt c), setWidth_zext (by decide)]

/-- Merging the eight nibbles two by two is their concatenation (rule R173). -/
theorem mergeBits_tree_eq_concat4 (s : Nat → Nibble) :
    mergeBits (hw := 16)
        (mergeBits (hw := 8) (mergeBits (hw := 4) (s 0) (s 1)) (mergeBits (hw := 4) (s 2) (s 3)))
        (mergeBits (hw := 8) (mergeBits (hw := 4) (s 4) (s 5)) (mergeBits (hw := 4) (s 6) (s 7))) = concat4 s := by
  apply BitVec.eq_of_toNat_eq
  simp only [mergeBits, concat4, append_toNat]
  omega

/-- A chunk of six bits is a half of a half of a half of the mixed value (rule R172). -/
theorem splitBits_tree_eq_chunk (y : Subkey) :
    splitBits 6 (splitBits 12 (splitBits 24 y).1).1 = (chunk y 0, chunk y 1) ∧
    splitBits 6 (splitBits 12 (splitBits 24 y).1).2 = (chunk y 2, chunk y 3) ∧
    splitBits 6 (splitBits 12 (splitBits 24 y).2).1 = (chunk y 4, chunk y 5) ∧
    splitBits 6 (splitBits 12 (splitBits 24 y).2).2 = (chunk y 6, chunk y 7) := by
  simp only [Prod.ext_iff, splitBits, chunk, ← BitVec.toNat_inj, BitVec.extractLsb'_toNat, BitVec.toNat_setWidth,
    Nat.shiftRight_eq_div_pow]
  omega

/-- Settles O19: on fields that stand on ports each primitive is its field function, and the tree of splits and the tree of
merges are the chunks and the concatenation. -/
theorem frndFromPrimitives : Obligations.FrndFromPrimitives := by
  intro r k hr hk
  have hx : permute r 32 Rom.e = .ok ((permuteBits 48 Rom.e (r.setWidth 32)).setWidth 64) := permute_of_fits tableOk_e hr
  have hy : (permuteBits 48 Rom.e (r.setWidth 32)).setWidth 64 ^^^ k =
      (permuteBits 48 Rom.e (r.setWidth 32) ^^^ k.setWidth 48).setWidth 64 := by
    rw [BitVec.setWidth_xor, ← eq_zext_of_lt hk]
  rw [roundFunction_of_fits hr hk, roundFunctionBits, hx]
  simp only [bind, Except.bind, hy]
  generalize permuteBits 48 Rom.e (r.setWidth 32) ^^^ k.setWidth 48 = y
  obtain ⟨h01, h23, h45, h67⟩ := splitBits_tree_eq_chunk y
  simp only [split_zext (hw := 24) (by decide), split_zext (hw := 12) (by decide), split_zext (hw := 6) (by decide),
    h01, h23, h45, h67, substitute_zext, merge_zext (hw := 4) (by decide), merge_zext (hw := 8) (by decide),
    merge_zext (hw := 16) (by decide)]
  have hz := mergeBits_tree_eq_concat4 fun j => substituteBits (chunk y j) j
  exact (congrArg (fun z : Half => permute (z.setWidth 64) 32 Rom.p) hz).trans (permute_zext (by decide) tableOk_p _)

end Sys2Proof.Machine
end

section
/-! The complementation property (43_cipher_engine.md rule R196 (b)): which operations of the engine commute with the
complement, and that the round function cancels it. -/

namespace Sys2Proof.Machine

theorem mbit_not {w p : Nat} (v : BitVec w) (hp : 1 ≤ p ∧ p ≤ w) : mbit (~~~v) p = !mbit v p := by
  rw [mbit, mbit, BitVec.getLsbD_not, decide_eq_true (show w - p < w by omega), Bool.true_and]

/-- `permute` with a good table moves bits only. -/
theorem permuteBits_not {w n : Nat} {table : List Nat} (hok : tableOk table w = true) (hlen : table.length = n)
    (v : BitVec w) : permuteBits n table (~~~v) = ~~~permuteBits n table v := by
  apply BitVec.eq_of_getLsbD_eq
  intro i hi
  have hp := mem_range_of_tableOk hok (promRead_mem (k := n - 1 - i) (by omega))
  rw [Rom.promRead] at hp
  rw [permuteBits_getLsbD n table _ hlen i hi, mbit_not v hp, BitVec.getLsbD_not, decide_eq_true hi, Bool.true_and,
    permuteBits_getLsbD n table v hlen i hi]

theorem splitBits_not {hw : Nat} (v : BitVec (hw + hw)) :
    splitBits hw (~~~v) = (~~~(splitBits hw v).1, ~~~(splitBits hw v).2) := by
  apply Prod.ext
  · apply BitVec.eq_of_getLsbD_eq
    intro i hi
    rw [splitBits_fst_getLsbD _ i hi, BitVec.getLsbD_not, BitVec.getLsbD_not, splitBits_fst_getLsbD v i hi,
      decide_eq_true hi, decide_eq_true (show hw + i < hw + hw by omega)]
  · exact BitVec.setWidth_not (Nat.le_add_left _ _)

theorem mergeBits_not {hw : Nat} (l r : BitVec hw) : mergeBits (~~~l) (~~~r) = ~~~mergeBits l r := BitVec.not_append.symm

theorem rotateLeftBits_not (v : KHalf) {n : Nat} (hn : n < 28) : rotateLeftBits (~~~v) n = ~~~rotateLeftBits v n := by
  rw [rotateLeftBits_eq _ _ hn, rotateLeftBits_eq _ _ hn]
  apply BitVec.eq_of_getLsbD_eq
  intro i hi
  rw [rotateLeft_getLsbD _ n hi, BitVec.getLsbD_not, BitVec.getLsbD_not, rotateLeft_getLsbD v n hi,
    decide_eq_true hi, decide_eq_true (Nat.mod_lt _ (by decide))]

theorem carryRound_not (cd : Carry) {n : Nat} (hn : n < 28) : carryRound n (~~~cd) = ~~~carryRound n cd := by
  rw [carryRound, carryRound, splitBits_not (hw := 28), rotateLeftBits_not _ hn, rotateLeftBits_not _ hn, mergeBits_not]

theorem carryState_not (key : Word64) {n : Nat} (hn : n ≤ 16) : carryState (~~~key) n = ~~~carryState key n := by
  induction n with
  | zero => exact permuteBits_not tableOk_pc1 rfl key
  | succ n ih => rw [carryState_succ, ih (Nat.le_of_succ_le hn), carryRound_not _ (rot_lt_28 n hn), carryState_succ]

/-- The complemented key has the complemented subkeys. -/
theorem keysched_not (key : Word64) : keysched (~~~key) = (keysched key).map (~~~·) := by
  apply Vector.ext
  intro i hi
  rw [Vector.getElem_map, keysched_getElem, keysched_getElem, carryState_not key hi]
  exact permuteBits_not tableOk_pc2 rfl (carryState key (i + 1))

/-- The complements cancel in the mixed value. -/
theorem roundFunctionBits_not (r : Half) (k : Subkey) : roundFunctionBits (~~~r) (~~~k) = roundFunctionBits r k := by
  apply roundFunctionBits_congr
  rw [permuteBits_not (n := 48) tableOk_e rfl, ← BitVec.not_xor_left, ← BitVec.not_xor_right, BitVec.not_not]

/-- The complement of a pair of halves. -/
def notHalves (x : Half × Half) : Half × Half := (~~~x.1, ~~~x.2)

theorem feistelRound_not (k : Subkey) (x : Half × Half) :
    feistelRound (~~~k) (notHalves x) = notHalves (feistelRound k x) := by
  simp only [feistelRound, notHalves, roundFunctionBits_not, BitVec.not_xor_left]

theorem roundKeys_map_not (ks : Schedule) (dir : Bool) :
    roundKeys (ks.map (~~~·)) dir = (roundKeys ks dir).map (~~~·) := by
  simp [roundKeys]

theorem sixteenRounds_not (ks : Schedule) (dir : Bool) (x : Half × Half) :
    sixteenRounds (ks.map (~~~·)) dir (notHalves x) = notHalves (sixteenRounds ks dir x) := by
  rw [sixteenRounds_eq_foldl, sixteenRounds_eq_foldl, roundKeys_map_not, List.foldl_map]
  exact List.foldl_hom notHalves fun x k => feistelRound_not k x

theorem initialHalves_not (b : Word64) : initialHalves (~~~b) = notHalves (initialHalves b) := by
  rw [initialHalves, permuteBits_not (n := 64) tableOk_ip rfl]
  exact splitBits_not (hw := 32) _

theorem finalBlock_not (x : Half × Half) : finalBlock (notHalves x) = ~~~finalBlock x := by
  rw [finalBlock, notHalves, mergeBits_not]
  exact permuteBits_not tableOk_fp rfl _

theorem crypt_not (ks : Schedule) (b : Word64) (dir : Bool) :
    crypt (ks.map (~~~·)) (~~~b) dir = ~~~crypt ks b dir := by
  rw [crypt, initialHalves_not, sixteenRounds_not, finalBlock_not, crypt]

/-- Settles O25: complementing the subkeys and the halves complements the halves of every round. -/
theorem complementation : Obligations.Complementation := by
  intro key b
  rw [keysched_not]
  exact ⟨crypt_not _ b false, crypt_not _ b true⟩

end Sys2Proof.Machine
end

section
/-! Runs of ENC and DEC with one key store (43_cipher_engine.md rule R193, 20_memory.md rule R81). -/

namespace Sys2Proof.Machine

/-- The state after ENC or DEC as one transaction: the answer, the registers cleared, the port empty. -/
def cryptDone (cmd : Command) (dir : Bool) (s : State) : State :=
  { s.endCrypt.respond (crypt s.schedule cmd.a dir) 0#64 with inputs := [] }

/-- The state after ENC or DEC without a key. -/
def cryptRefused (s : State) : State := { s.raise .nokey with inputs := [] }

section
variable {s : State} {cmd : Command} {i : Instr} {dir : Bool} (hidle : s.ph = .idle) (hd : decode cmd.cw = .ok i)
  (hexec : ∀ s, exec i s = cryptCommand dir s)
include hidle hd hexec

theorem transact_of_key (hkv : s.kv = true) : transact cmd s = .next (cryptDone cmd dir s) := by
  rw [transact_of_decoded hidle hd, hexec, cryptCommand_of_key dir (s := s.present cmd) hkv]
  rfl

theorem transact_of_no_key (hkv : s.kv = false) : transact cmd s = .next (cryptRefused s) := by
  have hfault : cryptCommand dir (s.present cmd) = .next ((s.present cmd).raise .nokey) := by simp [cryptCommand, hkv]
  rw [transact_of_decoded hidle hd, hexec, hfault]
  rfl

end

/-- ENC and DEC are the common part in one direction or the other. -/
theorem decodes_to_cryptCommand {cmd : Command} (h : decode cmd.cw = .ok .enc ∨ decode cmd.cw = .ok .dec) :
    ∃ i dir, decode cmd.cw = .ok i ∧ ∀ s, exec i s = cryptCommand dir s := by
  obtain hd | hd := h
  · exact ⟨.enc, false, hd, fun _ => rfl⟩
  · exact ⟨.dec, true, hd, fun _ => rfl⟩

/-- One direction and then the other, with the same key: the second command gives the block of the first. -/
theorem transact_round_trip {s : State} (hidle : s.ph = .idle) (hkv : s.kv = true) {cw cw' : CmdWord} {i i' : Instr}
    {dir : Bool} (hd : decode cw = .ok i) (hd' : decode cw' = .ok i') (hexec : ∀ s, exec i s = cryptCommand dir s)
    (hexec' : ∀ s, exec i' s = cryptCommand (!dir) s) (b u v : Word64) :
    ∃ t c, transact ⟨cw, b, u⟩ s = .next t ∧ t.rsp = some { err := .ok, q0 := c, q1 := 0#64 } ∧
      ∃ t', transact ⟨cw', c, v⟩ t = .next t' ∧ t'.rsp = some { err := .ok, q0 := b, q1 := 0#64 } := by
  refine ⟨cryptDone ⟨cw, b, u⟩ dir s, crypt s.schedule b dir, transact_of_key hidle hd hexec hkv, rfl, _,
    transact_of_key (s := cryptDone ⟨cw, b, u⟩ dir s) rfl hd' hexec' hkv, ?_⟩
  have hback : crypt s.schedule (crypt s.schedule b dir) (!dir) = b := crypt_crypt_not s.schedule b dir
  exact congrArg (fun q => some (Response.mk .ok q 0#64)) hback

/-- Settles O23: each direction undoes the other under every schedule, and a command leaves the schedule as it is. -/
theorem encryptDecryptRoundTrip : Obligations.EncryptDecryptRoundTrip := by
  have henc : decode 0x8000#16 = .ok .enc := by decide
  have hdec : decode 0x9000#16 = .ok .dec := by decide
  refine ⟨fun ks b => ⟨crypt_crypt_not ks b false, crypt_crypt_not ks b true⟩, fun s hidle hkv => ?_,
    fun s hidle hkv => ?_⟩
  · exact transact_round_trip (dir := false) hidle hkv henc hdec (fun _ => rfl) fun _ => rfl
  · exact transact_round_trip (dir := true) hidle hkv hdec henc (fun _ => rfl) fun _ => rfl

/-- Settles O58: neither command changes what the other one reads, and both leave the same registers; without a key both are
NOKEY, whose bit of `FLT` is set once more. -/
theorem encDecCommute : Obligations.EncDecCommute := by
  intro s c1 c2 hidle hc1 hc2
  obtain ⟨i1, dir1, hd1, hexec1⟩ := decodes_to_cryptCommand hc1
  obtain ⟨i2, dir2, hd2, hexec2⟩ := decodes_to_cryptCommand hc2
  cases hkv : s.kv with
  | true =>
    exact ⟨_, _, _, _, transact_of_key hidle hd1 hexec1 hkv,
      transact_of_key (s := cryptDone c1 dir1 s) rfl hd2 hexec2 hkv, transact_of_key hidle hd2 hexec2 hkv,
      transact_of_key (s := cryptDone c2 dir2 s) rfl hd1 hexec1 hkv, rfl, rfl, rfl⟩
  | false =>
    exact ⟨_, _, _, _, transact_of_no_key hidle hd1 hexec1 hkv,
      transact_of_no_key (s := cryptRefused s) hidle hd2 hexec2 hkv, transact_of_no_key hidle hd2 hexec2 hkv,
      transact_of_no_key (s := cryptRefused s) hidle hd1 hexec1 hkv, rfl, rfl, rfl⟩

end Sys2Proof.Machine
end

section
/-! What every command leaves, answers and reads (30_encoding.md rules R94 to R96, 40_primitives.md common part). -/

namespace Sys2Proof.Machine

/-- A command other than NEW, ENC and DEC only responds or takes a fault. -/
theorem exec_pure {i : Instr} {s t : State} (hnew : i ≠ .new) (henc : i ≠ .enc) (hdec : i ≠ .dec)
    (h : exec i s = .next t) : PureOutcome s t := by
  obtain hpure | ⟨rfl, -⟩ | ⟨rfl | rfl, -⟩ := exec_inv h
  · exact hpure
  · exact absurd rfl hnew
  · exact absurd rfl henc
  · exact absurd rfl hdec

/-- Settles O53: a response writes the response signals, and a fault also its bit of `FLT`. -/
theorem primitivesWriteNoRegister : Obligations.PrimitivesWriteNoRegister := by
  intro i s t hnew henc hdec h
  have hframe : t = { s with rsp := t.rsp, flt := t.flt } := by
    obtain ⟨q0, q1, rfl⟩ | ⟨e, -, rfl⟩ := exec_pure hnew henc hdec h <;> rfl
  refine ⟨hframe, fun rsp hrsp => ⟨fun hok => ?ok, fun e herr => ?fault⟩⟩
  case ok =>
    obtain ⟨q0, q1, rfl⟩ | ⟨e, -, rfl⟩ := exec_pure hnew henc hdec h
    · rfl
    · cases hrsp
      cases hok
  case fault => rw [faulted_eq_raise, (exec_fault h hrsp herr).1]

/-! Two presented commands that differ in an operand that is not read: the port moves on past both, so the states after
them are equal. -/

theorem accepted_answer (res : Except Cause (Word64 × Word64)) (s : State) :
    accepted (answer res s) = answer res s.advance := by
  cases res <;> rfl

theorem accepted_answerOne (res : Except Cause Word64) (s : State) :
    accepted (answerOne res s) = answerOne res s.advance := by
  cases res <;> rfl

theorem accepted_execSplit (hw : BitVec 6) (s : State) :
    accepted (execSplit hw s) =
      if legalHalfWidth hw then answer (split s.opA hw.toNat) s.advance else .next (s.advance.raise .illcmd) := by
  rw [execSplit, apply_ite accepted, accepted_answer]
  rfl

theorem accepted_execNew (s : State) : accepted (execNew s) =
    .next ({ s.advance.endKeygen with ks := fullStore (keysched s.opA), kv := true }.respond 0#64 0#64) := rfl

theorem accepted_cryptCommand (dir : Bool) (s : State) : accepted (cryptCommand dir s) =
    if s.advance.kv then .next (s.advance.endCrypt.respond (crypt s.advance.schedule s.opA dir) 0#64)
    else .next (s.advance.raise .nokey) := by
  rw [cryptCommand, apply_ite accepted]
  rfl

/-- An instruction that does not read `B`: what an accepted command leaves depends on `A` and on the state after the port has
moved on. -/
theorem accepted_exec_congr {i : Instr} {s s' : State} (hmerge : ∀ hw, i ≠ .merge hw) (hfrnd : i ≠ .frnd)
    (hA : s.opA = s'.opA) (hs : s.advance = s'.advance) : accepted (exec i s) = accepted (exec i s') := by
  have hone (f : Word64 → Except Cause Word64) :
      accepted (answerOne (f s.opA) s) = accepted (answerOne (f s'.opA) s') := by
    rw [accepted_answerOne, accepted_answerOne, hA, hs]
  have hcrypt (dir : Bool) : accepted (cryptCommand dir s) = accepted (cryptCommand dir s') := by
    rw [accepted_cryptCommand, accepted_cryptCommand, hA, hs]
  cases i with
  | permIp => exact hone (permute · 64 Rom.ip)
  | permFp => exact hone (permute · 64 Rom.fp)
  | permPc1 => exact hone (permute · 64 Rom.pc1)
  | permPc2 => exact hone (permute · 56 Rom.pc2)
  | permE => exact hone (permute · 32 Rom.e)
  | permP => exact hone (permute · 32 Rom.p)
  | split hw =>
    have hsplit (s : State) : accepted (exec (.split hw) s) = _ := accepted_execSplit hw s
    rw [hsplit, hsplit, hA, hs]
  | merge hw => exact absurd rfl (hmerge hw)
  | substS1 => exact hone (substitute · 0)
  | substS2 => exact hone (substitute · 1)
  | substS3 => exact hone (substitute · 2)
  | substS4 => exact hone (substitute · 3)
  | substS5 => exact hone (substitute · 4)
  | substS6 => exact hone (substitute · 5)
  | substS7 => exact hone (substitute · 6)
  | substS8 => exact hone (substitute · 7)
  | rotl1 => exact hone (rotateLeft · 1)
  | rotl2 => exact hone (rotateLeft · 2)
  | new =>
    have hnew (s : State) : accepted (exec .new s) = _ := accepted_execNew s
    rw [hnew, hnew, hA, hs]
  | frnd => exact absurd rfl hfrnd
  | enc => exact hcrypt false
  | dec => exact hcrypt true

/-- Settles O56: what a step leaves is a function of `A` and of the state after the port has moved on, and for an illegal
word of that state alone. -/
theorem unreadOperands : Obligations.UnreadOperands := by
  have hp {s : State} (hidle : s.ph = .idle) (cmd : Command) (rest : List PortIn) :
      Claims.Presented { s with inputs := .command cmd :: rest } cmd rest := ⟨hidle, rfl⟩
  refine ⟨fun s cw a b b' rest hidle hmerge hfrnd => ?legal, fun s cw a a' b b' rest hidle hillegal => ?illegal⟩
  case legal =>
    rw [step_of_presented (hp hidle ⟨cw, a, b⟩ rest), step_of_presented (hp hidle ⟨cw, a, b'⟩ rest), commandWhole,
      commandWhole]
    cases hd : decode cw with
    | error e => rfl
    | ok i => exact accepted_exec_congr (fun hw h => hmerge hw (h ▸ hd)) (fun h => hfrnd (h ▸ hd)) rfl rfl
  case illegal =>
    rw [step_of_illegal (hp hidle ⟨cw, a, b⟩ rest) hillegal, step_of_illegal (hp hidle ⟨cw, a', b'⟩ rest) hillegal]
    rfl

end Sys2Proof.Machine
end

section
/-! The shape of a response (30_encoding.md rules R92, R95): the results of each function fit the width that its command
declares. -/

namespace Sys2Proof.Machine

theorem permute_lt {v q : Word64} {w : Nat} {table : List Nat} (h : permute v w table = .ok q) :
    q.toNat < 2 ^ table.length := by
  rw [permute] at h
  split at h
  · split at h <;> cases h
    exact zext_lt _
  · cases h

theorem split_lt {v : Word64} {hw : Nat} {q : Word64 × Word64} (h : split v hw = .ok q) :
    q.1.toNat < 2 ^ hw ∧ q.2.toNat < 2 ^ hw := by
  rw [split] at h
  split at h <;> cases h
  case isTrue hfits =>
    rw [highHalf_toNat, lowHalf_toNat]
    exact ⟨highHalf_lt ((fits_iff v _).1 hfits), Nat.mod_lt _ (Nat.two_pow_pos hw)⟩

theorem merge_lt {a b q : Word64} {hw : Nat} (h : merge a b hw = .ok q) : q.toNat < 2 ^ (2 * hw) := by
  have hfits : a.toNat < 2 ^ hw ∧ b.toNat < 2 ^ hw := by
    by_contra hwide
    rw [merge_of_wide (by omega)] at h
    cases h
  rw [merge_of_fits hfits.1 hfits.2] at h
  cases h
  rw [BitVec.toNat_ofNat]
  exact (Nat.mod_le _ _).trans_lt (merged_lt hfits.1 hfits.2)

theorem substitute_lt {c q : Word64} {j : Nat} (h : substitute c j = .ok q) : q.toNat < 2 ^ 4 := by
  rw [substitute] at h
  split at h <;> cases h
  exact zext_lt _

theorem rotateLeft_lt {v q : Word64} {n : Nat} (h : rotateLeft v n = .ok q) : q.toNat < 2 ^ 28 := by
  rw [rotateLeft] at h
  split at h <;> cases h
  exact zext_lt _

theorem roundFunction_lt {r k q : Word64} (h : roundFunction r k = .ok q) : q.toNat < 2 ^ 32 := by
  rw [roundFunction] at h
  split at h
  · cases h
  · split at h <;> cases h
    exact zext_lt _

theorem errCode_toNat_le (e : Err) : (errCode e).toNat ≤ 4 := by
  obtain ⟨-, -, -, -, -, -, hle, -⟩ := faultCodes
  exact hle e

/-- A response as rule R95 allows it for the instruction. -/
structure WellShaped (i : Instr) (rsp : Response) : Prop where
  fault_results : rsp.err ≠ .ok → rsp.q0 = 0#64 ∧ rsp.q1 = 0#64
  q0_lt : rsp.q0.toNat < 2 ^ Claims.resultWidth i
  q1_lt : rsp.q1.toNat < 2 ^ Claims.resultWidth i
  q1_eq_zero : (∀ hw, i ≠ .split hw) → rsp.q1 = 0#64

/-- The state holds a response that is well shaped for the instruction. -/
def Answers (i : Instr) (t : State) : Prop := ∃ rsp, t.rsp = some rsp ∧ WellShaped i rsp

theorem raise_answers (i : Instr) (s : State) (c : Cause) : Answers i (s.raise c) :=
  ⟨_, rfl, fun _ => ⟨rfl, rfl⟩, Nat.two_pow_pos _, Nat.two_pow_pos _, fun _ => rfl⟩

theorem respond_answers {i : Instr} (s : State) {q : Word64} (hq : q.toNat < 2 ^ Claims.resultWidth i) :
    Answers i (s.respond q 0#64) :=
  ⟨_, rfl, fun h => absurd rfl h, hq, Nat.two_pow_pos _, fun _ => rfl⟩

theorem answerOne_answers {i : Instr} {s t : State} {res : Except Cause Word64}
    (hres : ∀ {q}, res = .ok q → q.toNat < 2 ^ Claims.resultWidth i) (h : answerOne res s = .next t) : Answers i t := by
  obtain ⟨q, hq, rfl⟩ | ⟨e, -, rfl⟩ := answerOne_cases h
  · exact respond_answers s (hres hq)
  · exact raise_answers i s e

theorem execSplit_answers {hw : BitVec 6} {s t : State} (h : execSplit hw s = .next t) : Answers (.split hw) t := by
  rw [execSplit] at h
  split at h
  · obtain ⟨q, hq, rfl⟩ | ⟨e, -, rfl⟩ := answer_cases h
    · exact ⟨_, rfl, fun h => absurd rfl h, (split_lt hq).1, (split_lt hq).2, fun h => absurd rfl (h hw)⟩
    · exact raise_answers _ s e
  · cases h
    exact raise_answers _ s .illcmd

theorem execMerge_answers {hw : BitVec 6} {s t : State} (h : execMerge hw s = .next t) : Answers (.merge hw) t := by
  rw [execMerge] at h
  split at h
  · exact answerOne_answers merge_lt h
  · cases h
    exact raise_answers _ s .illcmd

theorem cryptCommand_answers {i : Instr} (hi : Claims.resultWidth i = 64) {dir : Bool} {s t : State}
    (h : cryptCommand dir s = .next t) : Answers i t := by
  obtain ⟨-, e⟩ | ⟨-, e⟩ := cryptCommand_cases dir s <;> cases e.symm.trans h
  · exact raise_answers i s .nokey
  · exact respond_answers s.endCrypt (by rw [hi]; exact BitVec.isLt _)

/-- Every command answers with a well-shaped response. -/
theorem exec_answers {i : Instr} {s t : State} (h : exec i s = .next t) : Answers i t := by
  cases i with
  | permIp | permFp | permPc1 | permPc2 | permE | permP => exact answerOne_answers permute_lt h
  | split hw => exact execSplit_answers h
  | merge hw => exact execMerge_answers h
  | substS1 | substS2 | substS3 | substS4 | substS5 | substS6 | substS7 | substS8 =>
    exact answerOne_answers substitute_lt h
  | rotl1 | rotl2 => exact answerOne_answers rotateLeft_lt h
  | new =>
    cases h
    exact respond_answers (q := 0#64) _ (by decide)
  | frnd => exact answerOne_answers roundFunction_lt h
  | enc | dec => exact cryptCommand_answers rfl h

/-- Settles O57: every command answers with a well-shaped response, and no code is above 4. -/
theorem responseShape : Obligations.ResponseShape := by
  intro i s t _ h
  obtain ⟨rsp, hrsp, hfault, hq0, hq1, hzero⟩ := exec_answers h
  exact ⟨rsp, hrsp, errCode_toNat_le rsp.err, hfault, hq0, hq1, hzero⟩

end Sys2Proof.Machine
end
